-- ==== Sys2Proof/Word.lean ====
section
/-! DEFINITION. The word types of the core and its one data type, the pixel in component form (10_state R10). -/

namespace Sys2Proof

/-- A byte of the stream, of the output, or one colour channel (00_scope R4, `CHAN_BITS`). -/
abbrev Byte := BitVec 8

/-- A 32-bit register, or a packed pixel (00_scope R4, `PIX_BITS`, `W_BITS`). -/
abbrev Word := BitVec 32

/-- A pixel in component form: four unsigned bytes (10_state R10). -/
structure Pixel where
  r : Byte
  g : Byte
  b : Byte
  a : Byte
  deriving DecidableEq, Repr

end Sys2Proof
end

