-- ==== Sys2Proof/Config.lean ====
section
/-! DEFINITION. The free values: constants without a body, which no proof can evaluate. A machine draws from them with
the counter `draws` of State. Every other parameter of 00_scope R4 is fixed by the spec and stands where it is used. -/

namespace Sys2Proof

/-- An unspecified register's content after a hard reset event, and the answer of a status read that the spec says
returns any value (10_state R30, 45_host_commands R156, 93 U14). DESIGN CHOICE, safe: log entries 3 and 5. -/
opaque Config.freeWord : Nat → Word

/-- Whether the pixel offered to the sink is delivered when hard reset strikes (70_reset_and_hazards R200, 93 U15).
DESIGN CHOICE, safe: log entry 4. -/
opaque Config.freeBit : Nat → Bool

/-- How many of the bytes requested from the source are consumed when hard reset strikes (R200, 93 U15).
DESIGN CHOICE, safe: log entry 4. -/
opaque Config.freeCount : Nat → Nat

end Sys2Proof
end

