-- ==== Sys2Proof/Syntax.lean ====
section
/-! DEFINITION. The opcode set (30_encoding R70): one constructor per row of spec/opcode_table.json, its operands the
raw fields of R64. The biases of R66 are applied by the meanings (Machine/Operands.lean). -/

namespace Sys2Proof

/-- One opcode. The index of `lookup` and the field of `run` are carried as bytes, so that the defensive checks of
60_exceptions R168 and R169 have a value to test: WellFormed says which values an encoding can hold (log entry 13). -/
inductive Instr where
  /-- LIT.RGB r, g, b -/
  | litRgb (r g b : Byte)
  /-- LIT.RGBA r, g, b, a -/
  | litRgba (r g b a : Byte)
  /-- LOOKUP index -/
  | lookup (index : Byte)
  /-- SDELTA, raw fields `dr_f`, `dg_f`, `db_f` -/
  | sdelta (dr dg db : BitVec 2)
  /-- LDELTA, raw fields `vg_f`, `drg_f`, `dbg_f` -/
  | ldelta (vg : BitVec 6) (drg dbg : BitVec 4)
  /-- RUN, raw field `run_f` (the length minus 1) -/
  | run (field : Byte)
  deriving DecidableEq, Repr

end Sys2Proof
end

