-- ==== Sys2Proof/WellFormed.lean ====
section
/-! DEFINITION. Which instructions an encoding can hold: the raw ranges of 30_encoding R64. -/

namespace Sys2Proof

/-- The raw fields lie in the ranges of 30_encoding R64: a LOOKUP index is 0 to 63, a RUN field 0 to 61 (62 and 63 are
the tags of the literals, R62). Every other operand has exactly its field's width. -/
def Instr.fieldsInRange : Instr → Bool
  | .litRgb _ _ _ => true
  | .litRgba _ _ _ _ => true
  | .lookup index => decide (index.toNat < 64)
  | .sdelta _ _ _ => true
  | .ldelta _ _ _ => true
  | .run field => decide (field.toNat < 62)

/-- A well-formed instruction: one that some byte string encodes. -/
abbrev WellFormed (i : Instr) : Prop := i.fieldsInRange = true

end Sys2Proof
end

