-- ==== Sys2Proof/Decode.lean ====
section
/-! DEFINITION. The opcode demultiplexer's decoder (30_encoding R60 to R64, 40_sequencer R84, R85) on a list of stream
bytes, and the encoder written from the same tables. The decoder is total: on every byte list it gives an instruction,
says how many bytes it had when the list ran out, or names an unknown tag (which R63 makes impossible). -/

namespace Sys2Proof

/-- The tag space as an explicit variant set (30_encoding R61). -/
inductive Opcode where
  | litRgb
  | litRgba
  | lookup
  | sdelta
  | ldelta
  | run
  deriving DecidableEq, Repr

/-- What the decoder finds at the front of the stream. -/
inductive Decoded where
  /-- a whole opcode, and the bytes after it -/
  | instr (i : Instr) (rest : List Byte)
  /-- the list ends inside an opcode, or before it: `got` bytes of it are there -/
  | short (got : Nat)
  /-- no row of 40_sequencer R85 applies to this tag -/
  | unknownTag (t : Byte)
  deriving DecidableEq, Repr

/-- The two exact-byte tests, then the 2-bit prefix, top to bottom (30_encoding R61, 40_sequencer R85). `none` is the
defensive unknown-tag case (60_exceptions R170). -/
def classify (t : Byte) : Option Opcode :=
  if t = 0xFE#8 then some .litRgb
  else if t = 0xFF#8 then some .litRgba
  else if t.extractLsb' 6 2 = 0b00#2 then some .lookup
  else if t.extractLsb' 6 2 = 0b01#2 then some .sdelta
  else if t.extractLsb' 6 2 = 0b10#2 then some .ldelta
  else if t.extractLsb' 6 2 = 0b11#2 then some .run
  else none

/-- The payload bytes of each opcode (30_encoding R60, 40_sequencer R84). -/
def payloadCount : Opcode → Nat
  | .litRgb => 3
  | .litRgba => 4
  | .lookup => 0
  | .sdelta => 0
  | .ldelta => 1
  | .run => 0

/-- How many bytes of one opcode a stream has at its front: the whole opcode, or as many as there are. -/
def opcodeBytes : List Byte → Nat
  | [] => 0
  | t :: p =>
    match classify t with
    | none => 1
    | some o => 1 + min p.length (payloadCount o)

/-- The low 6 bits of a tag as a byte: the raw field of LOOKUP and RUN (30_encoding R64). -/
def tagField (t : Byte) : Byte := (t.extractLsb' 0 6).setWidth 8

/-- The decoder (30_encoding R64; field positions inside SDELTA and LDELTA by the spec's decision, R65, log entry 12).
The payload is taken in stream order and never looked at as a tag (R69). -/
def decode : List Byte → Decoded
  | [] => .short 0
  | t :: p =>
    match classify t with
    | none => .unknownTag t
    | some .litRgb =>
      match p with
      | r :: g :: b :: rest => .instr (.litRgb r g b) rest
      | _ => .short (1 + p.length)
    | some .litRgba =>
      match p with
      | r :: g :: b :: a :: rest => .instr (.litRgba r g b a) rest
      | _ => .short (1 + p.length)
    | some .lookup => .instr (.lookup (tagField t)) p
    | some .sdelta =>
      .instr (.sdelta (t.extractLsb' 4 2) (t.extractLsb' 2 2) (t.extractLsb' 0 2)) p
    | some .ldelta =>
      match p with
      | q :: rest => .instr (.ldelta (t.extractLsb' 0 6) (q.extractLsb' 4 4) (q.extractLsb' 0 4)) rest
      | _ => .short (1 + p.length)
    | some .run => .instr (.run (tagField t)) p

/-- The bytes of a well-formed instruction, tag first (30_encoding R60, R64, R72). -/
def encode : Instr → List Byte
  | .litRgb r g b => [0xFE#8, r, g, b]
  | .litRgba r g b a => [0xFF#8, r, g, b, a]
  | .lookup index => [0b00#2 ++ index.setWidth 6]
  | .sdelta dr dg db => [0b01#2 ++ dr ++ dg ++ db]
  | .ldelta vg drg dbg => [0b10#2 ++ vg, drg ++ dbg]
  | .run field => [0b11#2 ++ field.setWidth 6]

/-- The stream bytes of the number `w` of `nbits` bits, bit 0 the lowest bit of the first byte, filled with zero bytes up
to the longest opcode (5 bytes, 30_encoding R60). -/
def tableBytes (nbits w : Nat) : List Byte :=
  [0, 1, 2, 3, 4].map fun k => BitVec.ofNat 8 ((w % 2 ^ nbits) / 2 ^ (8 * k))

/-- The instruction the decoder reads from the opcode whose bits are `w`, numbered as the opcode table numbers them. -/
def decodeTableWord (nbits w : Nat) : Option Instr :=
  match decode (tableBytes nbits w) with
  | .instr i _ => some i
  | .short _ => none
  | .unknownTag _ => none

/-! Each constructor's decoding, on bytes written out from the spec's encoding of it. -/

/-- `FE 05 06 07` is LIT.RGB 5, 6, 7 (41_literal R100, its example). -/
theorem decode_litRgb_word : decode [0xFE, 0x05, 0x06, 0x07] = .instr (.litRgb 5 6 7) [] := by decide

/-- `FF 10 20 30 40` is LIT.RGBA 16, 32, 48, 64 (41_literal R103, the source's example). -/
theorem decode_litRgba_word : decode [0xFF, 0x10, 0x20, 0x30, 0x40] = .instr (.litRgba 16 32 48 64) [] := by decide

/-- `20` is LOOKUP 32 (42_cache_lookup R110, its example). -/
theorem decode_lookup_word : decode [0b00100000] = .instr (.lookup 32) [] := by decide

/-- `72` = 01 11 00 10 has fields 3, 0, 2: dr = 1, dg = -2, db = 0 (43_delta R120, its example). -/
theorem decode_sdelta_word : decode [0b01110010] = .instr (.sdelta 3 0 2) [] := by decide

/-- `A5 5F` = 10 100101, 0101 1111 has vg_f = 37, drg_f = 5, dbg_f = 15 (43_delta R123, its example). -/
theorem decode_ldelta_word : decode [0b10100101, 0b01011111] = .instr (.ldelta 37 5 15) [] := by decide

/-- `C2` = 11 000010 is RUN 3, raw field 2 (44_run R135, the source's example). -/
theorem decode_run_word : decode [0b11000010] = .instr (.run 2) [] := by decide

end Sys2Proof
end

