-- ==== Sys2Proof/Machine/State.lean ====
section
/-! DEFINITION. The state of the core and of the part of its environment that decides its steps, as plain data; the
reasons a step can stop; and the state right after reset (10_state R30, 70_reset_and_hazards R200). -/

namespace Sys2Proof.Machine

/-- The phase register PH (10_state R24). Its codes are in Machine/Flags.lean. -/
inductive Phase where
  /-- after hard reset, before the first INIT -/
  | uninit
  /-- constructed, not decoding a row -/
  | idle
  /-- decoding a row -/
  | busy
  /-- an error was raised; sticky -/
  | error
  deriving DecidableEq, Repr

/-- The error kinds of 60_exceptions R166. Their codes are in Machine/Flags.lean. -/
inductive ErrCode where
  /-- no error -/
  | none
  /-- IO_ERROR: the source ended or failed -/
  | ioError
  /-- FMT_ILLEGAL_INDEX, defensive (R168) -/
  | illegalIndex
  /-- FMT_ILLEGAL_RUN_LENGTH, defensive (R169) -/
  | illegalRunLength
  /-- FMT_UNKNOWN_TAG, defensive (R170) -/
  | unknownTag
  deriving DecidableEq, Repr

/-- The error record ERR (10_state R26). -/
structure ErrorRecord where
  code : ErrCode
  sub : BitVec 1
  value : Byte
  deriving DecidableEq, Repr

/-- What the byte source answers once its bytes are used up (20_memory R42, R43). -/
inductive SourceEnd where
  /-- `End`: the source is exhausted -/
  | ends
  /-- `Fail`: the source could not read -/
  | fails
  /-- no answer: the source holds the core (20_memory R44) -/
  | stalls
  deriving DecidableEq, Repr

/-- One pixel transfer on the sink port: the slot COL and the pixel (20_memory R49). -/
structure Transfer where
  slot : Word
  px : Pixel
  deriving DecidableEq, Repr

/-- One move of the environment. A step takes the first move of `events`; with none left the host is quiet for ever and
every step is the core's (log entry 1). -/
inductive Event where
  /-- no move of the environment: the core takes its step -/
  | quiet
  /-- the reset input is asserted and released (70_reset_and_hazards R200) -/
  | hardReset
  /-- the host command INIT(w) (45_host_commands R150) -/
  | init (w : Word)
  /-- the host command DECODE_ROW (45_host_commands R152) -/
  | decodeRow
  /-- the host reads status register `n` (45_host_commands R156, 10_state R27) -/
  | readStatus (n : Nat)
  /-- the host connects or repositions the byte source (70_reset_and_hazards R205 step 4, R207) -/
  | placeSource (bytes : List Byte) (after : SourceEnd)
  /-- the source can deliver further bytes: a hold lifts, or the terminator changes (20_memory R44) -/
  | supply (bytes : List Byte) (after : SourceEnd)
  /-- the sink starts or stops accepting (20_memory R51) -/
  | sinkReady (ready : Bool)
  /-- the host hands the sink a fresh zeroed image buffer (20_memory R50, 70_reset_and_hazards R208) -/
  | freshImage
  deriving DecidableEq, Repr

/-- What the host gets back for a command or a status read. The spec leaves the signalling to the platform
(45_host_commands R151); log entry 6. -/
inductive Reply where
  | accepted
  | notAccepted
  | status (value : Word)
  deriving DecidableEq, Repr

/-- Byte memory: address and byte, canonical form stated by `Memory.wf` (Machine/Ops.lean). -/
abbrev Memory := List Host.Cell

/-- The state. Above: the core's registers (10_state R14 to R26). Below: the environment's part (20_memory, log entries
9 and 10) with the hidden latches (10_state R28), and the model's own fields `events`, `replies`, `draws` (log entries 1, 6, 3). -/
structure State where
  /-- LAST, the most recently decoded pixel (R14) -/
  last : Pixel
  /-- RUN, the pixels still owed (R16) -/
  run : BitVec 6
  /-- CACHE, 64 packed pixels (R17) -/
  cache : Vector Word 64
  /-- ROW_WIDTH (R20) -/
  rowWidth : Word
  /-- COL, the next slot of the row (R21) -/
  col : Word
  /-- ROW, rows completed since INIT, wrapping (R22) -/
  row : Word
  /-- SPOS, stream bytes consumed since INIT, wrapping (R23) -/
  spos : BitVec 64
  /-- PH (R24) -/
  phase : Phase
  /-- ROW_DONE (R25) -/
  rowDone : Bool
  /-- ERR (R26) -/
  err : ErrorRecord
  /-- the stream bytes that no step has consumed, next first: those in the latches, then those the source will deliver
  (20_memory R43, R44) -/
  sourceBytes : List Byte
  /-- the hidden latches of a partly fetched opcode: how many bytes at the front of `sourceBytes` the source has delivered
  already (10_state R28, 20_memory R44; log entry 8) -/
  latched : Nat
  /-- what the source answers after them (20_memory R43) -/
  sourceEnd : SourceEnd
  /-- whether the sink accepts a pixel (20_memory R51) -/
  sinkAccepts : Bool
  /-- the image buffer behind the sink (20_memory R50) -/
  image : Memory
  /-- the transfers the sink took, oldest first (20_memory R49, R56) -/
  sent : List Transfer
  /-- the number y of the row being filled, without ROW's wrap (20_memory R50) -/
  rowsDone : Nat
  /-- the environment's moves still to come, next first -/
  events : List Event
  /-- what the host got back, oldest first -/
  replies : List Reply
  /-- how many free values have been drawn from Config -/
  draws : Nat
  deriving DecidableEq, Repr

/-- Why the machine stops with a fault. -/
inductive Fault where
  /-- A pixel would be written to an output slot at or above ROW_WIDTH, which does not exist (20_memory R40, R51).
  Raised by `emit`, when a meaning is run outside the precondition of every opcode (00_scope R8); no step from a state
  with COL at most ROW_WIDTH raises it. SAFE: the model stops. Log entry 14. -/
  | slotOutsideRow
  deriving DecidableEq, Repr

/-- Why the machine refuses an instruction. -/
inductive Refusal where
  /-- The instruction has no meaning yet. Raised only by a refused arm of exec, of which there is none left. SAFE: the
  model stops. -/
  | notModelled (mnemonic : String)
  deriving DecidableEq, Repr

/-- The three outcomes of a step of this machine. -/
abbrev Result := Host.Outcome State Fault Refusal

/-- No error (10_state R26). -/
def ErrorRecord.clear : ErrorRecord := ⟨.none, 0, 0⟩

/-- Right after power-on reset (10_state R30, 70_reset_and_hazards R200): UNINIT, no row done, no error. The other
registers are unspecified there and hold zero here (DESIGN CHOICE, unsafe: log entry 2). No source is connected yet, so
it does not answer; the latches are empty; the sink accepts; the image is zeroed (log entries 9 and 10). -/
def State.reset : State where
  last := ⟨0, 0, 0, 0⟩
  run := 0
  cache := Vector.replicate 64 0
  rowWidth := 0
  col := 0
  row := 0
  spos := 0
  phase := .uninit
  rowDone := false
  err := .clear
  sourceBytes := []
  latched := 0
  sourceEnd := .stalls
  sinkAccepts := true
  image := []
  sent := []
  rowsDone := 0
  events := []
  replies := []
  draws := 0

end Sys2Proof.Machine
end

