-- ==== Sys2Proof/Machine/Operands.lean ====
section
/-! DEFINITION. Operand assembly (30_encoding R66), the channel arithmetic (43_delta R126) and the two forms of a pixel
(10_state R11, R12). -/

namespace Sys2Proof.Machine

/-- `pack`: r in bits 31:24, g in 23:16, b in 15:8, a in 7:0 (10_state R11). -/
def pack (px : Pixel) : Word := px.r ++ px.g ++ px.b ++ px.a

/-- `unpack` (10_state R12). -/
def unpack (u : Word) : Pixel :=
  ⟨u.extractLsb' 24 8, u.extractLsb' 16 8, u.extractLsb' 8 8, u.extractLsb' 0 8⟩

/-- `add8(x, d) = (x + d) mod 256` for a byte and any integer (00_scope R6): wraps, never saturates (43_delta R126). -/
def add8 (x : Byte) (d : Int) : Byte := BitVec.ofInt 8 ((x.toNat : Int) + d)

/-- A small delta: field minus 2, from -2 to 1 (30_encoding R66). -/
def smallDelta (f : BitVec 2) : Int := (f.toNat : Int) - 2

/-- The green delta: field minus 32, from -32 to 31 (30_encoding R66). -/
def greenDelta (f : BitVec 6) : Int := (f.toNat : Int) - 32

/-- A red or blue correction: field minus 8, from -8 to 7 (30_encoding R66). -/
def chromaDelta (f : BitVec 4) : Int := (f.toNat : Int) - 8

/-- The run length: field plus 1, as the 6-bit counter holds it (30_encoding R66, 44_run R135). -/
def runLength (f : Byte) : BitVec 6 := BitVec.ofNat 6 (f.toNat + 1)

/-- The cache entry a LOOKUP index names (30_encoding R64: 6 bits). -/
def lookupEntry (index : Byte) : BitVec 6 := index.setWidth 6

/-- `hash(px) = (3r + 5g + 7b + 11a) mod 64`, over the integers (40_sequencer R87, R88). -/
def pixelHash (px : Pixel) : BitVec 6 :=
  BitVec.ofNat 6 ((3 * px.r.toNat + 5 * px.g.toNat + 7 * px.b.toNat + 11 * px.a.toNat) % 64)

/-- The pixel of LIT.RGB: alpha carried from the previous pixel (41_literal R100). -/
def literalPixel (last : Pixel) (r g b : Byte) : Pixel := ⟨r, g, b, last.a⟩

/-- The pixel of SDELTA: each colour lane on its own, alpha kept (43_delta R120, R125, R128). -/
def smallDeltaPixel (last : Pixel) (dr dg db : BitVec 2) : Pixel :=
  ⟨add8 last.r (smallDelta dr), add8 last.g (smallDelta dg), add8 last.b (smallDelta db), last.a⟩

/-- The pixel of LDELTA: the green delta on all three colour lanes, the corrections on red and blue (43_delta R123). -/
def lumaDeltaPixel (last : Pixel) (vg : BitVec 6) (drg dbg : BitVec 4) : Pixel :=
  ⟨add8 last.r (greenDelta vg + chromaDelta drg), add8 last.g (greenDelta vg),
    add8 last.b (greenDelta vg + chromaDelta dbg), last.a⟩

end Sys2Proof.Machine
end

