-- ==== Sys2Proof/Machine/Ops.lean ====
section
/-! DEFINITION. The named operations over memory and registers: byte memory, the pixel cache, the stream position, Emit
and Commit (40_sequencer R90, R91), holding (20_memory R44, R51), and error entry (60_exceptions R175). An error has no
return: the exits from ERROR are INIT and hard reset (R176), in Machine/HostPort.lean. -/

namespace Sys2Proof.Machine

/-! ### Byte memory -/

/-- What an unlisted byte reads as: the image buffer is allocated zero-initialised (20_memory R50). -/
def Memory.blank : Byte := 0

/-- The canonical form: addresses strictly rising, no cell equal to what an unlisted byte reads as. -/
abbrev Memory.wf (m : Memory) : Prop :=
  m.Pairwise (fun x y => x.1 < y.1) ∧ ∀ c ∈ m, c.2 ≠ Memory.blank

/-- The byte at an address. -/
def Memory.read : Memory → Nat → Byte
  | [], _ => Memory.blank
  | (k, v) :: m, a => if k = a then v else Memory.read m a

/-- A cell in front of `m`, unless it says what an unlisted byte says. -/
def Memory.cons (a : Nat) (v : Byte) (m : Memory) : Memory :=
  if v = Memory.blank then m else (a, v) :: m

/-- Store one byte, keeping the canonical form. -/
def Memory.write : Memory → Nat → Byte → Memory
  | [], a, v => Memory.cons a v []
  | (k, w) :: m, a, v =>
    if a < k then Memory.cons a v ((k, w) :: m)
    else if a = k then Memory.cons a v m
    else (k, w) :: Memory.write m a v

/-- The four bytes of a pixel at rising addresses, r first (20_memory R49). -/
def Memory.writePixel (m : Memory) (a : Nat) (px : Pixel) : Memory :=
  (((m.write a px.r).write (a + 1) px.g).write (a + 2) px.b).write (a + 3) px.a

/-! ### The pixel cache -/

/-- `CACHE[i]` (10_state R17). -/
def cacheRead (s : State) (i : BitVec 6) : Word := s.cache[i.toNat]'(i.isLt)

/-- `CACHE[i] <- v` (10_state R17). -/
def State.cacheWrite (s : State) (i : BitVec 6) (v : Word) : State :=
  { s with cache := s.cache.set i.toNat v i.isLt }

/-! ### Registers -/

/-- `LAST <- px`. -/
def State.setLast (s : State) (px : Pixel) : State := { s with last := px }

/-- `RUN <- v`. -/
def State.setRun (s : State) (v : BitVec 6) : State := { s with run := v }

/-- The effect of `n` successful Fetch calls in a step that ends the opcode: the bytes are consumed, SPOS advances,
wrapping, and the latches are empty (40_sequencer R83, 10_state R23, R28). -/
def State.advance (n : Nat) (s : State) : State :=
  { s with spos := s.spos + BitVec.ofNat 64 n, sourceBytes := s.sourceBytes.drop n, latched := 0 }

/-- `n` bytes of the opcode have arrived and wait in the hidden latches; no register changes, SPOS included (10_state
R28, 20_memory R44). -/
def State.latch (n : Nat) (s : State) : State := { s with latched := n }

/-! ### The output -/

/-- The byte offset in the image buffer of the row slice being filled: `y * ROW_WIDTH * 4` (20_memory R50). -/
def sliceBase (s : State) : Nat := s.rowsDone * s.rowWidth.toNat * 4

/-- Where the next pixel goes: offset `4 * COL` of the row slice (20_memory R49). -/
def outAddr (s : State) : Nat := sliceBase s + 4 * s.col.toNat

/-- One transfer taken by the sink, and `COL <- COL + 1`. -/
def State.pushPixel (px : Pixel) (s : State) : State :=
  { s with
    image := s.image.writePixel (outAddr s) px
    sent := s.sent ++ [⟨s.col, px⟩]
    col := s.col + 1 }

/-- `Emit(px)` (40_sequencer R90). Its precondition is COL < ROW_WIDTH: a slot at or above ROW_WIDTH does not exist
(20_memory R40, R51), and the machine stops there (log entry 14). -/
def emit (px : Pixel) (s : State) : Result :=
  if s.col < s.rowWidth then .next (s.pushPixel px) else .fault .slotOutsideRow

/-- `Commit(px)`: the cache entry at the hash of the new pixel, LAST, Emit (40_sequencer R91). -/
def commit (px : Pixel) (s : State) : Result :=
  emit px ((s.cacheWrite (pixelHash px) (pack px)).setLast px)

/-! ### Holding -/

/-- The core is held in `s`, or has nothing to do there (20_memory R44, R51, 60_exceptions R192; log entry 7). -/
def hold (s : State) : Result := .next s

/-- A step that emits is enabled only when the sink accepts; until then the core holds in it, in the state `held`
(20_memory R51). `k` is the step. -/
def whenSinkAccepts (s held : State) (k : Result) : Result := if s.sinkAccepts then k else hold held

/-- The execution `k` of an opcode of `n` bytes that emits. All its bytes have been fetched: they are consumed with the
step, and wait in the latches while the sink holds it (40_sequencer R84, 10_state R28). -/
def whenFetched (n : Nat) (s : State) (k : State → Result) : Result :=
  whenSinkAccepts s (s.latch n) (k (s.advance n))

/-! ### Errors -/

/-- The state after error entry: PH and ERR, nothing else (60_exceptions R175). -/
def State.raised (code : ErrCode) (sub : BitVec 1) (value : Byte) (s : State) : State :=
  { s with phase := .error, err := ⟨code, sub, value⟩ }

/-- `raise` (60_exceptions R175). It is called on the state the step began in, advanced past the bytes that were
fetched: every other write of the step is thereby abandoned. -/
def raise (code : ErrCode) (sub : BitVec 1) (value : Byte) (s : State) : Result :=
  .next (s.raised code sub value)

/-- The read after the last byte the source has, with `k` bytes of the opcode fetched: IOError with SUB 0 for `End`, 1
for `Fail`; no answer holds the core, with those bytes in the latches and no register changed (40_sequencer R83,
60_exceptions R167, 20_memory R44). -/
def sourceDry (k : Nat) (s : State) : Result :=
  match s.sourceEnd with
  | .ends => raise .ioError 0 (BitVec.ofNat 8 k) (s.advance k)
  | .fails => raise .ioError 1 (BitVec.ofNat 8 k) (s.advance k)
  | .stalls => hold (s.latch k)

/-- Run `f` on the next state, or stop as `o` stopped. -/
def andThen (o : Result) (f : State → Result) : Result :=
  match o with
  | .next s => f s
  | .fault r => .fault r
  | .refused r => .refused r

end Sys2Proof.Machine
end

