-- ==== Sys2Proof/Machine/Flags.lean ====
section
/-! DEFINITION. The only status flag ROW_DONE and the phase as the host sees them: the codes of PH and ERR.CODE, the
status register map (10_state R27) and the two output lines (60_exceptions R180, R185). No opcode sets a flag
(10_state R25, 43_delta R127): the flag's writers are ROW-COMPLETE, DECODE_ROW, INIT and hard reset. -/

namespace Sys2Proof.Machine

/-- The code of PH (10_state R24). -/
def phaseCode : Phase → BitVec 2
  | .uninit => 0
  | .idle => 1
  | .busy => 2
  | .error => 3

/-- The code of ERR.CODE (60_exceptions R166). -/
def errCodeBits : ErrCode → BitVec 3
  | .none => 0
  | .ioError => 1
  | .illegalIndex => 2
  | .illegalRunLength => 3
  | .unknownTag => 4

/-- Status register 0, STATUS: PH in bits 1:0, ROW_DONE in bit 2, the rest 0 (10_state R27). -/
def statusWord (s : State) : Word := 0#29 ++ BitVec.ofBool s.rowDone ++ phaseCode s.phase

/-- Status register 1, ERR: CODE in bits 2:0, SUB in bit 3, VALUE in bits 15:8, the rest 0 (10_state R27). -/
def errWord (s : State) : Word :=
  0#16 ++ s.err.value ++ 0#4 ++ s.err.sub ++ errCodeBits s.err.code

/-- The register map (10_state R27); numbers 7 and above read 0. -/
def statusRegister (s : State) (n : Nat) : Word :=
  if n = 0 then statusWord s
  else if n = 1 then errWord s
  else if n = 2 then s.rowWidth
  else if n = 3 then s.col
  else if n = 4 then s.row
  else if n = 5 then s.spos.extractLsb' 0 32
  else if n = 6 then s.spos.extractLsb' 32 32
  else 0

/-- The status registers that are unspecified after hard reset and before INIT (10_state R30). -/
def unspecifiedInUninit (n : Nat) : Bool := decide (2 ≤ n ∧ n ≤ 6)

/-- The output line `row_done` (60_exceptions R180). -/
def rowDoneLine (s : State) : Bool := s.rowDone

/-- The output line `error` (60_exceptions R180). -/
def errorLine (s : State) : Bool := decide (s.phase = .error)

end Sys2Proof.Machine
end

