-- ==== Sys2Proof/Machine/CacheLookup.lean ====
section
/-! DEFINITION. The cache-lookup opcode (42_cache_lookup). -/

namespace Sys2Proof.Machine

/-- LOOKUP (42_cache_lookup R110): 1 byte; the pixel of the cache entry becomes LAST and is emitted, and the cache is
not written. The defensive check of 60_exceptions R168 comes before the cache is read; no encoding can fail it. -/
def execLookup (index : Byte) (s : State) : Result :=
  if 64 ≤ index.toNat then raise .illegalIndex 0 index (s.advance 1)
  else
    let px := unpack (cacheRead s (lookupEntry index))
    whenFetched 1 s fun t => emit px (t.setLast px)

end Sys2Proof.Machine
end

