-- ==== Sys2Proof/Machine/Delta.lean ====
section
/-! DEFINITION. The delta-prediction opcodes (43_delta). -/

namespace Sys2Proof.Machine

/-- SDELTA (43_delta R120): 1 byte; LAST plus the small deltas, committed. -/
def execSdelta (dr dg db : BitVec 2) (s : State) : Result :=
  whenFetched 1 s (commit (smallDeltaPixel s.last dr dg db))

/-- LDELTA (43_delta R123): 2 bytes; LAST plus the luma deltas, committed. -/
def execLdelta (vg : BitVec 6) (drg dbg : BitVec 4) (s : State) : Result :=
  whenFetched 2 s (commit (lumaDeltaPixel s.last vg drg dbg))

end Sys2Proof.Machine
end

