-- ==== Sys2Proof/Machine/Literal.lean ====
section
/-! DEFINITION. The literal opcodes (41_literal). -/

namespace Sys2Proof.Machine

/-- LIT.RGB (41_literal R100): 4 bytes; the pixel (r, g, b, LAST.a), committed. -/
def execLitRgb (r g b : Byte) (s : State) : Result :=
  whenFetched 4 s (commit (literalPixel s.last r g b))

/-- LIT.RGBA (41_literal R103): 5 bytes; the pixel as read, committed. -/
def execLitRgba (r g b a : Byte) (s : State) : Result :=
  whenFetched 5 s (commit ⟨r, g, b, a⟩)

end Sys2Proof.Machine
end

