-- ==== Sys2Proof/Machine/RunLength.lean ====
section
/-! DEFINITION. The run-length accumulator (44_run): the RUN opcode and the DRAIN step. -/

namespace Sys2Proof.Machine

/-- RUN (44_run R135): 1 byte; the counter gets the length, no pixel is emitted in this step. The defensive check of
60_exceptions R169 comes before the counter is written; no encoding can fail it. -/
def execRun (field : Byte) (s : State) : Result :=
  if 62 ≤ field.toNat then raise .illegalRunLength 0 field (s.advance 1)
  else .next ((s.advance 1).setRun (runLength field))

/-- DRAIN (44_run R138): LAST is emitted once more and the counter goes down by one; no byte is read. -/
def drain (s : State) : Result := whenSinkAccepts s s (emit s.last (s.setRun (s.run - 1)))

end Sys2Proof.Machine
end

