-- ==== Sys2Proof/Machine/Dispatch.lean ====
section
/-! DEFINITION. The execution half of the demultiplexer (40_sequencer R85): one arm per opcode. -/

namespace Sys2Proof.Machine

def exec (i : Instr) (s : State) : Host.Outcome State Fault Refusal :=
  match i with
  | .litRgb r g b => Sys2Proof.Machine.execLitRgb r g b s
  | .litRgba r g b a => Sys2Proof.Machine.execLitRgba r g b a s
  | .lookup index => Sys2Proof.Machine.execLookup index s
  | .sdelta dr dg db => Sys2Proof.Machine.execSdelta dr dg db s
  | .ldelta vg drg dbg => Sys2Proof.Machine.execLdelta vg drg dbg s
  | .run field => Sys2Proof.Machine.execRun field s

end Sys2Proof.Machine
end

