-- ==== Sys2Proof/Machine/Sequencer.lean ====
section
/-! DEFINITION. The row sequencer (40_sequencer): step selection, ROW-COMPLETE, the OPCODE step, and the placing of an
instruction where the next OPCODE step fetches it. -/

namespace Sys2Proof.Machine

/-- The state after ROW-COMPLETE (40_sequencer R82). The sink's own count of rows goes on with it (20_memory R50). -/
def State.rowCompleted (s : State) : State :=
  { s with phase := .idle, rowDone := true, row := s.row + 1, rowsDone := s.rowsDone + 1 }

/-- ROW-COMPLETE (40_sequencer R82). -/
def rowComplete (s : State) : Result := .next s.rowCompleted

/-- The OPCODE step (40_sequencer R84): the tag, all payload bytes, then the opcode's rule. A source that runs dry raises
IOError or holds; the unknown-tag check (60_exceptions R170) comes before any payload read (R174). -/
def opcodeStep (s : State) : Result :=
  match decode s.sourceBytes with
  | .instr i _ => exec i s
  | .short k => sourceDry k s
  | .unknownTag t => raise .unknownTag 0 t (s.advance 1)

/-- A step of the core (40_sequencer R80). In UNINIT, IDLE and ERROR the core is quiescent (60_exceptions R192). -/
def coreStep (s : State) : Result :=
  if s.phase = .busy then
    if s.col = s.rowWidth then rowComplete s
    else if 0 < s.run then drain s
    else opcodeStep s
  else hold s

/-- The state made ready for an OPCODE step (log entry 11): BUSY, no run pending, the row not full, the latches empty, the
sink accepting, no move of the environment waiting. COL and ROW_WIDTH change only where the row would be full. -/
def readyForOpcode (s : State) : State :=
  { s with
    phase := .busy
    run := 0
    col := if s.col < s.rowWidth then s.col else 0
    rowWidth := if s.rowWidth = 0 then 1 else s.rowWidth
    latched := 0
    sinkAccepts := true
    events := [] }

/-- `readyForOpcode` with the bytes of a table word in front of the stream, over what the source had there. -/
def placeTableWord (s : State) (nbits w : Nat) : State :=
  { readyForOpcode s with sourceBytes := tableBytes nbits w ++ s.sourceBytes.drop 5 }

end Sys2Proof.Machine
end

