-- ==== Sys2Proof/Machine/HostPort.lean ====
section
/-! DEFINITION. The moves of the environment: the host commands and the status port (45_host_commands), hard reset
(70_reset_and_hazards R200), and the source, the sink and the image buffer as the host provides them. -/

namespace Sys2Proof.Machine

/-- The state after an accepted INIT(w) (45_host_commands R150). The latches are empty and what was in them is gone
(10_state R28, R30; where INIT is accepted nothing is). The sink's row count restarts (20_memory R50). -/
def State.initialised (w : Word) (s : State) : State :=
  { s with
    rowWidth := w
    cache := Vector.replicate 64 0
    last := ⟨0, 0, 0, 255⟩
    run := 0
    col := 0
    row := 0
    spos := 0
    err := .clear
    rowDone := false
    phase := .idle
    sourceBytes := s.sourceBytes.drop s.latched
    latched := 0
    rowsDone := 0 }

/-- The state after an accepted DECODE_ROW (45_host_commands R152). -/
def State.rowStarted (s : State) : State := { s with col := 0, rowDone := false, phase := .busy }

/-- INIT is accepted in every phase but BUSY (45_host_commands R153). -/
def acceptsInit : Phase → Bool
  | .uninit => true
  | .idle => true
  | .busy => false
  | .error => true

/-- DECODE_ROW is accepted only in IDLE (45_host_commands R153). -/
def acceptsDecodeRow : Phase → Bool
  | .uninit => false
  | .idle => true
  | .busy => false
  | .error => false

/-- The host gets a reply. -/
def State.reply (r : Reply) (s : State) : State := { s with replies := s.replies ++ [r] }

/-- INIT(w): accepted, or without effect and not remembered (45_host_commands R151, R154; log entry 6). -/
def hostInit (w : Word) (s : State) : Result :=
  if acceptsInit s.phase then .next ((s.initialised w).reply .accepted) else .next (s.reply .notAccepted)

/-- DECODE_ROW: accepted, or without effect and not remembered. -/
def hostDecodeRow (s : State) : Result :=
  if acceptsDecodeRow s.phase then .next (s.rowStarted.reply .accepted) else .next (s.reply .notAccepted)

/-- A status read (45_host_commands R156): no effect on the core. In UNINIT an unspecified register reads as a free
value, a fresh one at each read (10_state R30; log entry 5). -/
def hostReadStatus (n : Nat) (s : State) : Result :=
  if s.phase = .uninit ∧ unspecifiedInUninit n = true then
    .next { s.reply (.status (Config.freeWord s.draws)) with draws := s.draws + 1 }
  else .next (s.reply (.status (statusRegister s n)))

/-- The stream bytes of the opcode the core is fetching that the source has delivered or can deliver (40_sequencer
R84). -/
def bytesInFlight (s : State) : Nat :=
  if s.phase = .busy ∧ s.col ≠ s.rowWidth ∧ s.run = 0 then opcodeBytes s.sourceBytes else 0

/-- The output side after the pixel of the step the core is in, if it has one, has been delivered. -/
def outputInFlight (s : State) : Memory × List Transfer :=
  match coreStep { s with sinkAccepts := true } with
  | .next t => (t.image, t.sent)
  | .fault _ => (s.image, s.sent)
  | .refused _ => (s.image, s.sent)

/-- How many stream bytes are gone when hard reset strikes: those in the latches, and of the others of the opcode being
fetched a free number (70_reset_and_hazards R200; log entry 4). -/
def bytesLost (s : State) : Nat :=
  s.latched + Config.freeCount s.draws % (bytesInFlight s - s.latched + 1)

/-- The port sides when hard reset strikes (70_reset_and_hazards R200; free values, log entry 4). The latches are empty
and what was in them is gone. A pixel is offered only once its opcode is fetched whole; then it may have been delivered. -/
def State.interrupted (s : State) : State :=
  let out := if Config.freeBit s.draws = true ∧ bytesLost s = bytesInFlight s then outputInFlight s else (s.image, s.sent)
  { s with
    image := out.1
    sent := out.2
    sourceBytes := s.sourceBytes.drop (bytesLost s)
    latched := 0 }

/-- The registers after hard reset (70_reset_and_hazards R200): UNINIT, flag and error record clear, every other
register a free value (log entry 3). -/
def State.registersLost (s : State) : State :=
  { s with
    phase := .uninit
    rowDone := false
    err := .clear
    rowWidth := Config.freeWord s.draws
    col := Config.freeWord (s.draws + 1)
    row := Config.freeWord (s.draws + 2)
    spos := Config.freeWord (s.draws + 3) ++ Config.freeWord (s.draws + 4)
    last := unpack (Config.freeWord (s.draws + 5))
    run := (Config.freeWord (s.draws + 6)).setWidth 6
    cache := Vector.ofFn fun i => Config.freeWord (s.draws + 7 + i.val)
    draws := s.draws + 71 }

/-- Hard reset, in every phase (70_reset_and_hazards R200). -/
def hardReset (s : State) : Result := .next s.interrupted.registersLost

/-- The byte source is connected or repositioned (70_reset_and_hazards R207). The bytes in the latches have been delivered
and stay there (20_memory R44, 10_state R28; log entry 10). -/
def State.sourcePlaced (bytes : List Byte) (after : SourceEnd) (s : State) : State :=
  { s with sourceBytes := s.sourceBytes.take s.latched ++ bytes, sourceEnd := after }

/-- The byte source can deliver further bytes (20_memory R44; log entry 10). -/
def State.supplied (bytes : List Byte) (after : SourceEnd) (s : State) : State :=
  { s with sourceBytes := s.sourceBytes ++ bytes, sourceEnd := after }

/-- One move of the environment, or the core's step when the environment is quiet. -/
def handleEvent (e : Event) (s : State) : Result :=
  match e with
  | .quiet => coreStep s
  | .hardReset => hardReset s
  | .init w => hostInit w s
  | .decodeRow => hostDecodeRow s
  | .readStatus n => hostReadStatus n s
  | .placeSource bytes after => .next (s.sourcePlaced bytes after)
  | .supply bytes after => .next (s.supplied bytes after)
  | .sinkReady ready => .next { s with sinkAccepts := ready }
  | .freshImage => .next { s with image := [] }

/-- One step of the machine: the next move of the environment, or the core's step when there is none (log entry 1). -/
def machineStep (s : State) : Result :=
  match s.events with
  | [] => coreStep s
  | e :: rest => handleEvent e { s with events := rest }

end Sys2Proof.Machine
end

