-- ==== Sys2Proof/Machine/BigStep.lean ====
section
/-! DEFINITION. The source's own form of decoding a row (40_sequencer R93): two loops, written as the source writes them
over the steps' effects. The machine's step does not use it; the two forms are claimed equal. -/

namespace Sys2Proof.Machine

/-- Emit LAST and count down while a run is pending and the row is not full, at most `n` times. -/
def drainLoop : Nat → State → Result
  | 0, s => .next s
  | n + 1, s => if 0 < s.run ∧ s.col < s.rowWidth then andThen (drain s) (drainLoop n) else .next s

/-- While the row is not full: fetch and execute one opcode, then pay out the run it may have set; at most `n` opcodes.
An error ends the loop. -/
def fillLoop : Nat → State → Result
  | 0, s => .next s
  | n + 1, s =>
    if s.phase = .busy ∧ s.col < s.rowWidth then
      andThen (opcodeStep s) fun t => andThen (drainLoop 62 t) (fillLoop n)
    else .next s

/-- The return of the source's `decode_row`: the row is complete, unless an error was raised. -/
def finishRow (s : State) : Result := if s.phase = .busy then rowComplete s else .next s

/-- The rest of a row, from any point of it: the pending run, then opcodes until the row is full (40_sequencer R93). Every
turn of the second loop fills at least one slot, so ROW_WIDTH turns are enough. -/
def decodeRowRest (s : State) : Result :=
  andThen (drainLoop 62 s) fun t => andThen (fillLoop s.rowWidth.toNat t) finishRow

end Sys2Proof.Machine
end

