-- ==== Sys2Proof/Machine/Container.lean ====
section
/-! DEFINITION. The host's side of one image, which 00_scope R3 puts outside the core: the container header as interface
data (20_memory R47, 70_reset_and_hazards R206) and the sequence of moves the host makes with it (45_host_commands R157,
70_reset_and_hazards R205). The machine's step does not use this file (log entry 16). -/

namespace Sys2Proof.Machine

/-- The header's fields (20_memory R47). -/
structure Header where
  width : Word
  height : Word
  channels : Byte
  colorspace : Byte
  deriving DecidableEq, Repr

/-- What the header parser answers: the header and the rest of the stream, or one of the host's errors
(60_exceptions R171, R172). -/
inductive HeaderRead where
  | ok (h : Header) (rest : List Byte)
  /-- FormatError bad-magic -/
  | badMagic
  /-- IOError: fewer than 14 bytes -/
  | tooShort
  deriving DecidableEq, Repr

/-- Four bytes as a big-endian unsigned 32-bit integer (20_memory R47). -/
def bigEndian (b3 b2 b1 b0 : Byte) : Word := b3 ++ b2 ++ b1 ++ b0

/-- The 14-byte header (20_memory R47): magic `71 6F 69 66`, width, height, channel count, colourspace tag. -/
def parseHeader : List Byte → HeaderRead
  | m0 :: m1 :: m2 :: m3 :: w3 :: w2 :: w1 :: w0 :: h3 :: h2 :: h1 :: h0 :: channels :: colorspace :: rest =>
    if [m0, m1, m2, m3] = [0x71, 0x6F, 0x69, 0x66] then
      .ok ⟨bigEndian w3 w2 w1 w0, bigEndian h3 h2 h1 h0, channels, colorspace⟩ rest
    else .badMagic
  | _ => .tooShort

/-- DECODE_ROW and as many quiet moves as a row of this width can take steps (40_sequencer R86). -/
def rowEvents (width : Word) : List Event :=
  .decodeRow :: List.replicate (2 * width.toNat + 1) .quiet

/-- The host's moves for one image: a zeroed buffer, the source at container byte 14, INIT(width), `height` times
DECODE_ROW (70_reset_and_hazards R205). After an error the rows left are not accepted and change nothing. -/
def imageEvents (h : Header) (pixelData : List Byte) (after : SourceEnd) : List Event :=
  [.freshImage, .placeSource pixelData after, .init h.width]
    ++ (List.replicate h.height.toNat (rowEvents h.width)).flatten

/-- The host's moves for a container; none if its header is not accepted (60_exceptions R171). -/
def containerEvents (container : List Byte) (after : SourceEnd) : List Event :=
  match parseHeader container with
  | .ok h rest => imageEvents h rest after
  | .badMagic => []
  | .tooShort => []

end Sys2Proof.Machine
end

