-- ==== Sys2Proof/Safety.lean ====
section
/-! DEFINITION. What the statements speak of: when a step can be taken, what an opcode leaves alone, what a committed
pixel does, the invariant of the machine, and fairness. -/

namespace Sys2Proof.Machine

/-- The precondition of a step that emits, as far as it is not the sequencer's: the row has a slot left and the sink
accepts (00_scope R8, 20_memory R51). -/
structure CanEmit (s : State) : Prop where
  slot : s.col < s.rowWidth
  sink : s.sinkAccepts = true

/-- The precondition of every opcode (00_scope R8), with the environment quiet. -/
structure AtOpcode (s : State) : Prop where
  busy : s.phase = .busy
  slot : s.col < s.rowWidth
  noRun : s.run = 0
  quiet : s.events = []

/-- What no opcode that runs to its end writes: the registers that 60_exceptions R187 keeps from opcodes, and the
environment apart from the stream and the output. -/
structure OpcodeFrame (s t : State) : Prop where
  rowWidth : t.rowWidth = s.rowWidth
  row : t.row = s.row
  phase : t.phase = s.phase
  rowDone : t.rowDone = s.rowDone
  err : t.err = s.err
  sourceEnd : t.sourceEnd = s.sourceEnd
  sinkAccepts : t.sinkAccepts = s.sinkAccepts
  rowsDone : t.rowsDone = s.rowsDone
  events : t.events = s.events
  replies : t.replies = s.replies
  draws : t.draws = s.draws

/-- `n` stream bytes consumed, the latches of the fetch empty (40_sequencer R83, 10_state R28). -/
structure Consumes (n : Nat) (s t : State) : Prop where
  spos : t.spos = s.spos + BitVec.ofNat 64 n
  bytes : t.sourceBytes = s.sourceBytes.drop n
  latches : t.latched = 0

/-- One pixel emitted (40_sequencer R90): the transfer, the next slot, and every byte of the image buffer outside the
pixel's four as before. -/
structure Emits (px : Pixel) (s t : State) : Prop where
  sent : t.sent = s.sent ++ [⟨s.col, px⟩]
  col : t.col = s.col + 1
  elsewhere : ∀ a, a < outAddr s ∨ outAddr s + 4 ≤ a → t.image.read a = s.image.read a

/-- A freshly derived pixel committed (40_sequencer R91): the cache entry at its hash, no other entry, and LAST. -/
structure Commits (px : Pixel) (s t : State) : Prop where
  entry : cacheRead t (pixelHash px) = pack px
  otherEntries : ∀ i, i ≠ pixelHash px → cacheRead t i = cacheRead s i
  last : t.last = px

/-- The four bytes of a pixel at an address (20_memory R49). -/
structure ReadsPixel (m : Memory) (a : Nat) (px : Pixel) : Prop where
  r : m.read a = px.r
  g : m.read (a + 1) = px.g
  b : m.read (a + 2) = px.b
  a : m.read (a + 3) = px.a

/-- The cache invariant (10_state R18). -/
def CacheInv (s : State) : Prop :=
  ∀ i : BitVec 6, cacheRead s i = 0 ∨ pixelHash (unpack (cacheRead s i)) = i

/-- The invariant of the machine (10_state R31, with R22, R28, R166 and the canonical form of memory). The register bounds are
claimed only after the first INIT: before it the registers are unspecified (R30). -/
structure MachineInv (s : State) : Prop where
  imageWf : s.image.wf
  errPhase : s.err.code ≠ .none ↔ s.phase = .error
  errReachable : s.err.code = .none ∨ s.err.code = .ioError
  errValue : s.err.value.toNat ≤ 4
  latches : s.latched ≤ bytesInFlight s
  rowDone : s.rowDone = true → s.phase = .idle ∧ s.col = s.rowWidth
  run : s.phase ≠ .uninit → s.run.toNat ≤ 62
  col : s.phase ≠ .uninit → s.col.toNat ≤ s.rowWidth.toNat
  cache : s.phase ≠ .uninit → CacheInv s
  row : s.phase ≠ .uninit → s.row = BitVec.ofNat 32 s.rowsDone

/-- The registers of the core, without the environment: what INIT sets and hard reset loses. -/
structure SameCore (s t : State) : Prop where
  last : t.last = s.last
  run : t.run = s.run
  cache : t.cache = s.cache
  rowWidth : t.rowWidth = s.rowWidth
  col : t.col = s.col
  row : t.row = s.row
  spos : t.spos = s.spos
  phase : t.phase = s.phase
  rowDone : t.rowDone = s.rowDone
  err : t.err = s.err

/-- A source that answers every read and a sink that always accepts, with the host quiet: stronger than
the fairness of 70_reset_and_hazards R226 (`Fair`), so that the steps of a row can be counted. -/
structure Flowing (s : State) : Prop where
  source : s.sourceEnd ≠ .stalls
  sink : s.sinkAccepts = true
  quiet : s.events = []

/-- `n` steps of the machine, stopping where it stops. -/
def runSteps : Nat → State → Result
  | 0, s => .next s
  | n + 1, s => andThen (step s) (runSteps n)

/-! ### Endless runs and weak fairness (70_reset_and_hazards R226) -/

/-- An endless run of the machine under an endless schedule of moves, one a step: `σ n` is the state before the move
`env n`. Every list of `events` is the beginning of such a schedule. -/
def IsRun (env : Nat → Event) (σ : Nat → State) : Prop :=
  ∀ n, step { σ n with events := [env n] } = .next (σ (n + 1))

/-- The core waits for a read: it fetches an opcode, and the bytes that are there are not the whole of it (20_memory
R44). -/
def ReadPending (s : State) : Prop :=
  s.phase = .busy ∧ s.col ≠ s.rowWidth ∧ s.run = 0 ∧ ∃ k, decode s.sourceBytes = .short k

/-- The core offers a pixel to the sink: in DRAIN, or with an opcode that emits fetched whole (20_memory R51). -/
def PixelOffered (s : State) : Prop :=
  s.phase = .busy ∧ s.col ≠ s.rowWidth ∧
    (0 < s.run ∨ ∃ i rest, decode s.sourceBytes = .instr i rest ∧ ∀ f, i ≠ .run f)

/-- Weak fairness of an action: if from some point on it stays enabled, then it is taken at that point or after. -/
def WeaklyFair (enabled taken : Nat → Prop) : Prop :=
  ∀ n, (∀ m, n ≤ m → enabled m) → ∃ m, n ≤ m ∧ taken m

/-- Weak fairness of the three agents, and nothing more (70_reset_and_hazards R226). An answer or an acceptance counts
where the core's step meets it: one taken back before is none. -/
structure Fair (env : Nat → Event) (σ : Nat → State) : Prop where
  /-- the source does not leave a read pending for ever: it delivers the bytes, or answers `End` or `Fail` -/
  source : WeaklyFair (fun n => ReadPending (σ n)) fun n => env n = .quiet ∧ (σ n).sourceEnd ≠ .stalls
  /-- the sink does not leave a pixel on offer for ever -/
  sink : WeaklyFair (fun n => PixelOffered (σ n)) fun n => env n = .quiet ∧ (σ n).sinkAccepts = true
  /-- the core is not starved of steps while it is in a row -/
  core : WeaklyFair (fun n => (σ n).phase = .busy) fun n => env n = .quiet

/-- The host lets a row go on: no hard reset, and no other source in place of the one it has (70_reset_and_hazards R200,
R207, R211). -/
def HostLeavesRow (env : Nat → Event) (σ : Nat → State) : Prop :=
  ∀ n, (σ n).phase = .busy → env n ≠ .hardReset ∧ ∀ bytes after, env n ≠ .placeSource bytes after

/-- `s` with other values in the diagnostic counters ROW and SPOS (10_state R22, R23). -/
def withCounters (row : Word) (spos : BitVec 64) (s : State) : State := { s with row := row, spos := spos }

/-- The outcome of a step without the diagnostic counters. -/
def forgetCounters (o : Result) : Result := andThen o fun t => .next (withCounters 0 0 t)

end Sys2Proof.Machine
end

