-- ==== Sys2Proof/Certificates/Slice0/Obligations.lean ====
section
/-! DEFINITION. The statements about the machine, one Prop each. "Stated" ones formalise a numbered rule of the spec,
"derived" ones rest on the sections they name (OBLIGATIONS.json). Nothing is proved here. -/

open Sys2Proof Sys2Proof.Machine

/-! ### Encoding -/

/-- Decode and encode agree, for every well-formed instruction with every operand value and any bytes after it
(30_encoding, sections 1 to 3). -/
def Obligations.DecodeOfEncodeIsTheInstruction : Prop :=
  ∀ i : Instr, WellFormed i → ∀ rest : List Byte, decode (encode i ++ rest) = .instr i rest

/-- Each byte string has one meaning: what the decoder takes is the encoding of what it answers, and that instruction is
well-formed (30_encoding, sections 1 to 3). -/
def Obligations.DecodedBytesAreTheEncoding : Prop :=
  ∀ (bytes : List Byte) (i : Instr) (rest : List Byte),
    decode bytes = .instr i rest → WellFormed i ∧ bytes = encode i ++ rest

/-- The decoder is total: no tag is unknown, five bytes always hold an opcode, and a list too short for its opcode is
reported with the number of bytes it has, at most four (30_encoding, sections 2 and 5). -/
def Obligations.DecoderIsTotal : Prop :=
  (∀ (bytes : List Byte) (t : Byte), decode bytes ≠ .unknownTag t) ∧
  (∀ bytes : List Byte, 5 ≤ bytes.length → ∃ i rest, decode bytes = .instr i rest) ∧
  (∀ (bytes : List Byte) (k : Nat), decode bytes = .short k → k = bytes.length ∧ k ≤ 4)

/-- R61: the two exact-byte tests, then the 2-bit prefix `t[7:6]`. -/
def Obligations.TagSelectsOpcode : Prop :=
  classify 0xFE = some .litRgb ∧ classify 0xFF = some .litRgba ∧
  ∀ t : Byte, t ≠ 0xFE → t ≠ 0xFF →
    (t.toNat / 64 = 0 → classify t = some .lookup) ∧
    (t.toNat / 64 = 1 → classify t = some .sdelta) ∧
    (t.toNat / 64 = 2 → classify t = some .ldelta) ∧
    (t.toNat / 64 = 3 → classify t = some .run)

/-- Bytes written out from the spec's encodings decode to the instructions they stand for (the examples of 41_literal,
42_cache_lookup, 43_delta and 44_run). The fields of SDELTA and LDELTA lie where the spec decided (D8, D9; log entry 12). -/
def Obligations.SpecExamplesDecode : Prop :=
  decode [0xFE, 0x05, 0x06, 0x07] = .instr (.litRgb 5 6 7) [] ∧
  decode [0xFF, 0x10, 0x20, 0x30, 0x40] = .instr (.litRgba 16 32 48 64) [] ∧
  decode [0x20] = .instr (.lookup 32) [] ∧
  decode [0x72] = .instr (.sdelta 3 0 2) [] ∧
  decode [0xA5, 0x5F] = .instr (.ldelta 37 5 15) [] ∧
  decode [0xC2] = .instr (.run 2) []

/-- Every run length from 1 to 62 has its tag, and no opcode encodes another length (44_run, raw encoding of the
length). -/
def Obligations.RunLengthsAreOneToSixtyTwo : Prop :=
  (∀ len : Nat, 1 ≤ len → len ≤ 62 →
    decode [BitVec.ofNat 8 (0xC0 + (len - 1))] = .instr (.run (BitVec.ofNat 8 (len - 1))) []) ∧
  (∀ (bytes : List Byte) (f : Byte) (rest : List Byte), decode bytes = .instr (.run f) rest →
    1 ≤ (runLength f).toNat ∧ (runLength f).toNat ≤ 62 ∧ (runLength f).toNat = f.toNat + 1)

/-- A table word placed where the machine fetches is run by the very next step (the model's convention, log entry 11). -/
def Obligations.PlacedWordRunsNext : Prop :=
  ∀ (s : State) (nbits w : Nat) (i : Instr), decodeTableWord nbits w = some i →
    step (s.withFetchWord nbits w) = exec i (s.withFetchWord nbits w)

/-! ### Pixels and the hash -/

/-- R11: the packed form of a pixel. -/
def Obligations.PackPlacesTheChannels : Prop :=
  (∀ r g b a : Byte,
    (pack ⟨r, g, b, a⟩).toNat = r.toNat * 2 ^ 24 + g.toNat * 2 ^ 16 + b.toNat * 2 ^ 8 + a.toNat ∧
    pack ⟨r, g, b, a⟩ = r ++ g ++ b ++ a) ∧
  pack ⟨16, 32, 48, 64⟩ = 0x10203040 ∧ pack ⟨0, 0, 0, 255⟩ = 0x000000FF

/-- R12: the component form of a packed pixel. -/
def Obligations.UnpackTakesTheChannels : Prop :=
  (∀ u : Word,
    (unpack u).r.toNat = u.toNat / 2 ^ 24 ∧ (unpack u).g.toNat = u.toNat / 2 ^ 16 % 256 ∧
    (unpack u).b.toNat = u.toNat / 2 ^ 8 % 256 ∧ (unpack u).a.toNat = u.toNat % 256) ∧
  unpack 0x00000000 = ⟨0, 0, 0, 0⟩ ∧ unpack 0x050607FF = ⟨5, 6, 7, 255⟩

/-- R13: `pack` and `unpack` are exact inverses. -/
def Obligations.PackAndUnpackAreInverse : Prop :=
  (∀ r g b a : Byte, unpack (pack ⟨r, g, b, a⟩) = ⟨r, g, b, a⟩) ∧ (∀ u : Word, pack (unpack u) = u)

/-- R88: the hash, with the rule's worked values. -/
def Obligations.HashFormula : Prop :=
  (∀ px : Pixel,
    (pixelHash px).toNat = (3 * px.r.toNat + 5 * px.g.toNat + 7 * px.b.toNat + 11 * px.a.toNat) % 64) ∧
  pixelHash ⟨0, 0, 0, 0⟩ = 0 ∧ pixelHash ⟨0, 0, 0, 255⟩ = 53 ∧ pixelHash ⟨255, 255, 255, 255⟩ = 38 ∧
  pixelHash ⟨16, 32, 48, 64⟩ = 32 ∧ pixelHash ⟨5, 6, 7, 255⟩ = 19 ∧ pixelHash ⟨128, 128, 128, 128⟩ = 0 ∧
  pixelHash ⟨1, 0, 0, 0⟩ = 3 ∧ pixelHash ⟨0, 1, 0, 0⟩ = 5 ∧ pixelHash ⟨0, 0, 1, 0⟩ = 7 ∧ pixelHash ⟨0, 0, 0, 1⟩ = 11

/-- Channel arithmetic wraps modulo 256; deltas may be added one after the other, and a negative delta may be replaced by
itself plus 256 (43_delta, arithmetic laws). -/
def Obligations.ChannelArithmeticWraps : Prop :=
  (∀ (x : Byte) (d : Int), ((add8 x d).toNat : Int) = ((x.toNat : Int) + d) % 256) ∧
  (∀ (x : Byte) (d e : Int), add8 (add8 x d) e = add8 x (d + e)) ∧
  (∀ (x : Byte) (d : Int), add8 x (d + 256) = add8 x d) ∧
  add8 0 (-2) = 254 ∧ add8 1 (-2) = 255 ∧ add8 0 (-1) = 255 ∧ add8 255 1 = 0 ∧ add8 2 (-2) = 0

/-! ### Emit and Commit -/

/-- R90: Emit writes one pixel at the slot, its four bytes at offset 4*COL of the row slice in the order r, g, b, a, and
advances COL; it reads and writes no other state. That the image buffer is canonical is part of the invariant `MachineInv`; where
the slice lies in the buffer is the sink's (log entry 9). -/
def Obligations.EmitWritesOnePixel : Prop :=
  ∀ (px : Pixel) (s : State), s.col < s.rowWidth → ∃ m : Memory,
    emit px s = .next { s with image := m, sent := s.sent ++ [⟨s.col, px⟩], col := s.col + 1 } ∧
    (s.image.wf → ReadsPixel m (sliceBase s + 4 * s.col.toNat) px ∧ m.wf) ∧
    (∀ a, a < sliceBase s + 4 * s.col.toNat ∨ sliceBase s + 4 * s.col.toNat + 4 ≤ a → m.read a = s.image.read a)

/-- R91: Commit writes the packed pixel at the hash of the new pixel (whatever was there), no other entry, then LAST, then
emits. -/
def Obligations.CommitUpdatesCacheLastAndOutput : Prop :=
  ∀ (px : Pixel) (s : State), s.col < s.rowWidth → ∃ t,
    commit px s = .next t ∧ Commits px s t ∧ Emits px s t ∧ (s.image.wf → ReadsPixel t.image (outAddr s) px) ∧
    t.spos = s.spos ∧ t.sourceBytes = s.sourceBytes ∧ t.latched = s.latched ∧ t.run = s.run ∧ OpcodeFrame s t

/-! ### What each opcode does, and that it completes -/

/-- LIT.RGB completes in every state with a slot and an accepting sink: alpha carried forward, pixel committed, 4 bytes
(41_literal). -/
def Obligations.LitRgbCommitsWithCarriedAlpha : Prop :=
  ∀ (r g b : Byte) (s : State), CanEmit s → ∃ t,
    exec (.litRgb r g b) s = .next t ∧ Commits ⟨r, g, b, s.last.a⟩ s t ∧ Emits ⟨r, g, b, s.last.a⟩ s t ∧
    (s.image.wf → ReadsPixel t.image (outAddr s) ⟨r, g, b, s.last.a⟩) ∧ Consumes 4 s t

/-- LIT.RGBA completes in every state with a slot and an accepting sink: the pixel as read, committed, 5 bytes
(41_literal). -/
def Obligations.LitRgbaCommitsThePixelRead : Prop :=
  ∀ (r g b a : Byte) (s : State), CanEmit s → ∃ t,
    exec (.litRgba r g b a) s = .next t ∧ Commits ⟨r, g, b, a⟩ s t ∧ Emits ⟨r, g, b, a⟩ s t ∧
    (s.image.wf → ReadsPixel t.image (outAddr s) ⟨r, g, b, a⟩) ∧ Consumes 5 s t

/-- LOOKUP completes for every index an encoding can hold, in every state with a slot and an accepting sink: the entry's
pixel, alpha included, becomes LAST and is emitted, 1 byte; no cache entry changes (42_cache_lookup). -/
def Obligations.LookupEmitsTheCacheEntry : Prop :=
  ∀ (index : Byte) (s : State), index.toNat < 64 → CanEmit s → ∃ t,
    exec (.lookup index) s = .next t ∧
    t.last = unpack (cacheRead s (BitVec.ofNat 6 index.toNat)) ∧
    Emits (unpack (cacheRead s (BitVec.ofNat 6 index.toNat))) s t ∧
    (s.image.wf → ReadsPixel t.image (outAddr s) (unpack (cacheRead s (BitVec.ofNat 6 index.toNat)))) ∧
    Consumes 1 s t ∧ t.cache = s.cache

/-- SDELTA completes in every state with a slot and an accepting sink: each colour channel of LAST plus its field minus 2,
modulo 256, alpha kept, committed, 1 byte (43_delta; field positions D8, log entry 12). -/
def Obligations.SdeltaAddsSmallDeltas : Prop :=
  ∀ (dr dg db : BitVec 2) (s : State), CanEmit s → ∃ px t,
    exec (.sdelta dr dg db) s = .next t ∧
    (px.r.toNat : Int) = ((s.last.r.toNat : Int) + ((dr.toNat : Int) - 2)) % 256 ∧
    (px.g.toNat : Int) = ((s.last.g.toNat : Int) + ((dg.toNat : Int) - 2)) % 256 ∧
    (px.b.toNat : Int) = ((s.last.b.toNat : Int) + ((db.toNat : Int) - 2)) % 256 ∧
    px.a = s.last.a ∧ Commits px s t ∧ Emits px s t ∧ (s.image.wf → ReadsPixel t.image (outAddr s) px) ∧
    Consumes 1 s t

/-- LDELTA completes in every state with a slot and an accepting sink: the green delta on all three colour channels, the
red and blue corrections besides, modulo 256, alpha kept, committed, 2 bytes (43_delta; nibble order D9, log entry 12). -/
def Obligations.LdeltaAddsLumaDeltas : Prop :=
  ∀ (vg : BitVec 6) (drg dbg : BitVec 4) (s : State), CanEmit s → ∃ px t,
    exec (.ldelta vg drg dbg) s = .next t ∧
    (px.r.toNat : Int) = ((s.last.r.toNat : Int) + (((vg.toNat : Int) - 32) + ((drg.toNat : Int) - 8))) % 256 ∧
    (px.g.toNat : Int) = ((s.last.g.toNat : Int) + ((vg.toNat : Int) - 32)) % 256 ∧
    (px.b.toNat : Int) = ((s.last.b.toNat : Int) + (((vg.toNat : Int) - 32) + ((dbg.toNat : Int) - 8))) % 256 ∧
    px.a = s.last.a ∧ Commits px s t ∧ Emits px s t ∧ (s.image.wf → ReadsPixel t.image (outAddr s) px) ∧
    Consumes 2 s t

/-- RUN completes for every field an encoding can hold, in every state: the counter gets the field plus 1, 1 byte is
consumed, no pixel is emitted (44_run). -/
def Obligations.RunSetsTheCounter : Prop :=
  ∀ (field : Byte) (s : State), field.toNat < 62 → ∃ t,
    exec (.run field) s = .next t ∧ t.run.toNat = field.toNat + 1 ∧ Consumes 1 s t ∧
    t.sent = s.sent ∧ t.col = s.col ∧ t.image = s.image

/-- LOOKUP of an entry that holds packed zero emits (0,0,0,0), alpha 0, and leaves the cache alone; it is no error
(42_cache_lookup, never-written entry). -/
def Obligations.LookupOfZeroEntryIsTransparentBlack : Prop :=
  ∀ (index : Byte) (s : State), index.toNat < 64 → CanEmit s → cacheRead s (BitVec.ofNat 6 index.toNat) = 0 → ∃ t,
    exec (.lookup index) s = .next t ∧ t.last = ⟨0, 0, 0, 0⟩ ∧ Emits ⟨0, 0, 0, 0⟩ s t ∧
    t.cache = s.cache ∧ t.phase = s.phase ∧ t.err = s.err

/-- A LOOKUP that follows a commit, at the hash of the committed pixel, gives that pixel (42_cache_lookup, 41_literal:
inferences of the spec). -/
def Obligations.LookupAfterCommitGivesThePixel : Prop :=
  ∀ (px : Pixel) (s t : State), commit px s = .next t → CanEmit t → ∃ u,
    exec (.lookup ((pixelHash px).setWidth 8)) t = .next u ∧ u.last = px ∧ Emits px t u ∧ u.cache = t.cache

/-- The defensive check of LOOKUP raises FMT_ILLEGAL_INDEX with the index, before the cache is read, and no byte string
decodes to an index that fails it (60_exceptions, section 1). The spec lets a model keep or drop the check; this one keeps
it, on an instruction whose index is a byte (log entry 13). -/
def Obligations.IllegalIndexIsRaisedAndUnreachable : Prop :=
  (∀ (index : Byte) (s : State), 64 ≤ index.toNat →
    exec (.lookup index) s = .next { s with
      spos := s.spos + 1, sourceBytes := s.sourceBytes.drop 1, latched := 0, phase := .error,
      err := ⟨.illegalIndex, 0, index⟩ }) ∧
  (∀ (bytes : List Byte) (index : Byte) (rest : List Byte),
    decode bytes = .instr (.lookup index) rest → index.toNat < 64) ∧
  errCodeBits .illegalIndex = 2

/-- The defensive check of RUN raises FMT_ILLEGAL_RUN_LENGTH with the raw field, before the counter is written, and no
byte string decodes to a field that fails it (60_exceptions, section 1). The spec lets a model keep or drop the check;
this one keeps it, on an instruction whose field is a byte (log entry 13). -/
def Obligations.IllegalRunLengthIsRaisedAndUnreachable : Prop :=
  (∀ (field : Byte) (s : State), 62 ≤ field.toNat →
    exec (.run field) s = .next { s with
      spos := s.spos + 1, sourceBytes := s.sourceBytes.drop 1, latched := 0, phase := .error,
      err := ⟨.illegalRunLength, 0, field⟩ }) ∧
  (∀ (bytes : List Byte) (field : Byte) (rest : List Byte),
    decode bytes = .instr (.run field) rest → field.toNat < 62) ∧
  errCodeBits .illegalRunLength = 3

/-- While the sink does not accept, every opcode that emits waits: no register and no byte of memory changes, and its bytes,
all fetched, are in the hidden latches; DRAIN waits with nothing changed (20_memory, section 3; log entries 7 and 8). -/
def Obligations.EmittingStepsWaitForTheSink : Prop :=
  ∀ s : State, s.sinkAccepts = false →
    (∀ i : Instr, WellFormed i → (∀ f, i ≠ .run f) → exec i s = .next { s with latched := (encode i).length }) ∧
    drain s = .next s

/-- A pixel for a slot the row does not have stops the machine by name: every opcode that emits, and DRAIN (the model's
choice, log entry 14). -/
def Obligations.SlotOutsideTheRowStops : Prop :=
  ∀ s : State, s.sinkAccepts = true → s.rowWidth.toNat ≤ s.col.toNat →
    (∀ i : Instr, WellFormed i → (∀ f, i ≠ .run f) → exec i s = .fault .slotOutsideRow) ∧
    drain s = .fault .slotOutsideRow

/-! ### Frames -/

/-- LIT.RGB, LIT.RGBA, SDELTA and LDELTA leave alone: every register but LAST, COL, SPOS and the one cache entry at the
hash of the new LAST, and every byte of memory but the four of the slot (40_sequencer, table of section 4). -/
def Obligations.CommittingOpcodesFrame : Prop :=
  ∀ (i : Instr) (s t : State),
    ((∃ r g b, i = .litRgb r g b) ∨ (∃ r g b a, i = .litRgba r g b a) ∨
      (∃ dr dg db, i = .sdelta dr dg db) ∨ (∃ vg drg dbg, i = .ldelta vg drg dbg)) →
    exec i s = .next t →
    OpcodeFrame s t ∧ t.run = s.run ∧
    (∀ k, k ≠ pixelHash t.last → cacheRead t k = cacheRead s k) ∧
    (∀ a, a < outAddr s ∨ outAddr s + 4 ≤ a → t.image.read a = s.image.read a)

/-- LOOKUP leaves alone: every register but LAST, COL and SPOS, the whole cache, and every byte of memory but the four of
the slot (42_cache_lookup). -/
def Obligations.LookupFrame : Prop :=
  ∀ (index : Byte) (s t : State), index.toNat < 64 → exec (.lookup index) s = .next t →
    OpcodeFrame s t ∧ t.run = s.run ∧ t.cache = s.cache ∧
    (∀ a, a < outAddr s ∨ outAddr s + 4 ≤ a → t.image.read a = s.image.read a)

/-- RUN leaves alone: every register but the counter and SPOS, the cache, LAST, and every byte of memory (44_run). -/
def Obligations.RunFrame : Prop :=
  ∀ (field : Byte) (s t : State), field.toNat < 62 → exec (.run field) s = .next t →
    OpcodeFrame s t ∧ t.last = s.last ∧ t.cache = s.cache ∧ t.col = s.col ∧ t.sent = s.sent ∧
    (∀ a, t.image.read a = s.image.read a)

/-! ### The sequencer -/

/-- When the bytes at the stream position decode to an instruction and the sequencer selects OPCODE, the step is exec of
that instruction on the state itself; a quiet move of the environment is only taken off the list. Nothing stands around
exec: the meanings consume their own bytes (40_sequencer, section 2). -/
def Obligations.StepRunsTheDecodedInstruction : Prop :=
  ∀ (s : State) (i : Instr) (rest : List Byte),
    s.phase = .busy → s.col ≠ s.rowWidth → s.run = 0 → decode s.sourceBytes = .instr i rest →
    (s.events = [] → step s = exec i s) ∧
    (∀ later, s.events = .quiet :: later → step s = exec i { s with events := later })

/-- R80: the core steps only in BUSY; a full row completes, else a pending run drains, else an opcode is fetched. -/
def Obligations.StepSelection : Prop :=
  ∀ s : State, s.events = [] →
    (s.phase ≠ .busy → step s = .next s) ∧
    (s.phase = .busy → s.col = s.rowWidth → step s = rowComplete s) ∧
    (s.phase = .busy → s.col ≠ s.rowWidth → 0 < s.run.toNat → step s = drain s) ∧
    (s.phase = .busy → s.col ≠ s.rowWidth → s.run.toNat = 0 → step s = opcodeStep s)

/-- R82: ROW-COMPLETE, with the rule's example. Nothing is said of `rowsDone`, the sink's own count of rows (log entry
9). -/
def Obligations.RowCompleteReturnsToIdle : Prop :=
  (∀ s : State, s.events = [] → s.phase = .busy → s.col = s.rowWidth → ∃ n,
    step s = .next { s with phase := .idle, rowDone := true, row := s.row + 1, rowsDone := n }) ∧
  (∀ s : State, s.events = [] → s.phase = .busy → s.rowWidth = 2 → s.col = 2 → s.run = 1 → s.row = 0 → ∃ t,
    step s = .next t ∧ t.phase = .idle ∧ t.rowDone = true ∧ t.row = 1 ∧ t.run = 1)

/-- R81: a row of width 0 completes at once, with no byte read, no pixel written, RUN, LAST and CACHE unchanged. -/
def Obligations.ZeroWidthRowCompletesAtOnce : Prop :=
  ∀ s : State, s.phase = .idle → s.rowWidth = 0 → s.events = [.decodeRow] → ∃ t,
    runSteps 2 s = .next t ∧ t.phase = .idle ∧ t.rowDone = true ∧ t.sourceBytes = s.sourceBytes ∧ t.spos = s.spos ∧
    t.sent = s.sent ∧ t.image = s.image ∧ t.run = s.run ∧ t.last = s.last ∧ t.cache = s.cache

/-- R138: DRAIN emits LAST and counts down by one; LAST, CACHE and SPOS keep their values; it raises nothing. -/
def Obligations.DrainPaysOutOnePixel : Prop :=
  (∀ s : State, s.phase = .busy → s.col < s.rowWidth → 0 < s.run.toNat → s.events = [] → s.sinkAccepts = true → ∃ t,
    step s = .next t ∧ Emits s.last s t ∧ (s.image.wf → ReadsPixel t.image (outAddr s) s.last) ∧
    t.run.toNat = s.run.toNat - 1 ∧ t.last = s.last ∧ t.cache = s.cache ∧ t.spos = s.spos ∧
    t.sourceBytes = s.sourceBytes ∧ t.latched = s.latched ∧ OpcodeFrame s t) ∧
  (∀ s : State, s.phase = .busy → s.events = [] → s.sinkAccepts = true → s.last = ⟨5, 6, 7, 255⟩ → s.run = 3 →
    s.col = 0 → s.rowWidth = 2 → ∃ t,
    step s = .next t ∧ t.sent = s.sent ++ [⟨0, ⟨5, 6, 7, 255⟩⟩] ∧ t.run = 2 ∧ t.col = 1)

/-- A RUN opcode with room in the row pays out exactly its length of copies of LAST, in consecutive slots, and then the
counter is 0 and the next byte of the stream is the one after it (44_run; 70_reset_and_hazards, section 3). -/
def Obligations.RunPaysOutItsLength : Prop :=
  ∀ (s : State) (field : Byte) (rest : List Byte), AtOpcode s → s.sinkAccepts = true →
    decode s.sourceBytes = .instr (.run field) rest → s.col.toNat + (field.toNat + 1) ≤ s.rowWidth.toNat → ∃ t,
    runSteps (field.toNat + 2) s = .next t ∧ t.run = 0 ∧ t.col.toNat = s.col.toNat + (field.toNat + 1) ∧
    t.sent = s.sent ++ (List.range (field.toNat + 1)).map (fun k => ⟨s.col + BitVec.ofNat 32 k, s.last⟩) ∧
    t.last = s.last ∧ t.cache = s.cache ∧ t.sourceBytes = rest ∧ t.phase = .busy

/-- A pending run carries over a row boundary: ROW-COMPLETE and the next DECODE_ROW keep RUN, LAST, CACHE and the stream,
and if the run is not over, the first step of a new row that has a slot is DRAIN (44_run; 45_host_commands). -/
def Obligations.PendingRunCarriesOverRows : Prop :=
  ∀ s : State, s.phase = .busy → s.col = s.rowWidth → s.events = [.quiet, .decodeRow] → ∃ t,
    runSteps 2 s = .next t ∧ t.phase = .busy ∧ t.col = 0 ∧ t.run = s.run ∧ t.last = s.last ∧ t.cache = s.cache ∧
    t.sourceBytes = s.sourceBytes ∧ t.spos = s.spos ∧
    (s.run ≠ 0 → s.rowWidth ≠ 0 → step t = drain t)

/-- A stream that ends inside an opcode, or before it: `End` and `Fail` raise IOError with the number of bytes of the
opcode obtained, those bytes consumed, the latches empty and nothing else changed; a source that does not answer holds the
core with those bytes in the hidden latches and nothing else changed (60_exceptions, sections 1 and 3; 20_memory, section
2; log entry 8). -/
def Obligations.TruncatedOpcodeRaisesIOError : Prop :=
  ∀ (s : State) (i : Instr) (k : Nat), AtOpcode s → WellFormed i → k < (encode i).length →
    s.sourceBytes = (encode i).take k →
    (s.sourceEnd = .ends → step s = .next { s with
      phase := .error, err := ⟨.ioError, 0, BitVec.ofNat 8 k⟩, spos := s.spos + BitVec.ofNat 64 k, sourceBytes := [],
      latched := 0 }) ∧
    (s.sourceEnd = .fails → step s = .next { s with
      phase := .error, err := ⟨.ioError, 1, BitVec.ofNat 8 k⟩, spos := s.spos + BitVec.ofNat 64 k, sourceBytes := [],
      latched := 0 }) ∧
    (s.sourceEnd = .stalls → step s = .next { s with latched := k })

/-- R175: error entry writes PH and ERR, and a step that ends in ERROR has changed nothing else but consumed the bytes it
obtained: no pixel, no data register, no counter but SPOS. SPOS advances by exactly the bytes the source had, which for an
IOError, the only error a step can raise, is also ERR.VALUE; the latches of the fetch are empty. -/
def Obligations.FailingStepAbandonsItsOtherWrites : Prop :=
  (∀ (code : ErrCode) (sub : BitVec 1) (value : Byte) (s : State),
    raise code sub value s = .next { s with phase := .error, err := ⟨code, sub, value⟩ }) ∧
  (∀ s t : State, s.phase = .busy → s.events = [] → step s = .next t → t.phase = .error →
    t.err.code = .ioError ∧ t.err.value.toNat = s.sourceBytes.length ∧
    t = { s with
      phase := .error, err := t.err, spos := s.spos + BitVec.ofNat 64 s.sourceBytes.length, sourceBytes := [],
      latched := 0 })

/-- ERROR is sticky: unless the host initialises or hard reset strikes, a step from ERROR changes no register of the core,
reads no byte, writes no pixel, and DECODE_ROW is not accepted (60_exceptions, section 3). That the host then has the reply
`notAccepted` is the model's choice (log entry 6): the spec leaves the signalling to the platform. -/
def Obligations.ErrorIsSticky : Prop :=
  ∀ s t : State, s.phase = .error →
    (∀ rest, s.events ≠ .hardReset :: rest) → (∀ w rest, s.events ≠ .init w :: rest) → step s = .next t →
    SameCore s t ∧ t.sent = s.sent ∧ (s.events = [] → t = s) ∧
    (∀ rest, s.events = .decodeRow :: rest → t.replies = s.replies ++ [.notAccepted])

/-! ### Host commands, status port, reset -/

/-- INIT(w) in a phase that accepts it gives every register its initial value, empties the hidden latches (what they held is
gone; in a state of the invariant they hold nothing), reads no byte and writes no pixel; in BUSY it changes nothing
(45_host_commands; 10_state, section 8). The reply is the model's (log entry 6). -/
def Obligations.InitConstructsTheDecoder : Prop :=
  ∀ (s : State) (w : Word) (later : List Event), s.events = .init w :: later →
    (s.phase ≠ .busy → ∃ t, step s = .next t ∧
      t.rowWidth = w ∧ (∀ i, cacheRead t i = 0) ∧ t.last = ⟨0, 0, 0, 255⟩ ∧ t.run = 0 ∧ t.col = 0 ∧ t.row = 0 ∧
      t.spos = 0 ∧ t.err = ⟨.none, 0, 0⟩ ∧ t.rowDone = false ∧ t.phase = .idle ∧
      t.latched = 0 ∧ t.sourceBytes = s.sourceBytes.drop s.latched ∧ t.sent = s.sent ∧ t.image = s.image ∧
      t.replies = s.replies ++ [.accepted]) ∧
    (s.phase = .busy → step s = .next { s with events := later, replies := s.replies ++ [.notAccepted] })

/-- R152: DECODE_ROW in IDLE sets COL, ROW_DONE and PH and changes nothing else; in every other phase it is not accepted
and changes nothing. The command is taken off the list, and nothing is said of the reply (log entries 1 and 6). -/
def Obligations.DecodeRowStartsARow : Prop :=
  ∀ (s : State) (later : List Event), s.events = .decodeRow :: later →
    (s.phase = .idle → ∃ r, step s = .next { s with
      col := 0, rowDone := false, phase := .busy, events := later, replies := r }) ∧
    (s.phase ≠ .idle → ∃ r, step s = .next { s with events := later, replies := r })

/-- R153: which command is accepted in which phase, when the core steps of its own, and that hard reset acts in every
phase. A command that is not accepted changes nothing; nothing is said of the reply (log entry 6). -/
def Obligations.AcceptanceTable : Prop :=
  ∀ s : State,
    (s.phase ≠ .busy → ∀ w, ∃ t, hostInit w s = .next t ∧ t.phase = .idle ∧ t.rowWidth = w ∧
      (∀ i, cacheRead t i = 0) ∧ t.last = ⟨0, 0, 0, 255⟩ ∧ t.run = 0 ∧ t.col = 0 ∧ t.row = 0 ∧ t.spos = 0) ∧
    (s.phase = .busy → ∀ w, ∃ r, hostInit w s = .next { s with replies := r }) ∧
    (s.phase = .idle → ∃ t, hostDecodeRow s = .next t ∧ t.phase = .busy) ∧
    (s.phase ≠ .idle → ∃ r, hostDecodeRow s = .next { s with replies := r }) ∧
    (s.phase ≠ .busy → coreStep s = .next s) ∧
    (s.phase = .busy → coreStep s = rowComplete s ∨ coreStep s = drain s ∨ coreStep s = opcodeStep s) ∧
    (∃ t, hardReset s = .next t ∧ t.phase = .uninit)

/-- The phase changes only as the spec lists: hard reset, INIT, DECODE_ROW, ROW-COMPLETE, error entry (10_state, section
5). -/
def Obligations.PhaseTransitions : Prop :=
  ∀ s t : State, step s = .next t → t.phase ≠ s.phase →
    (t.phase = .uninit ∧ ∃ later, s.events = .hardReset :: later) ∨
    (t.phase = .idle ∧ s.phase ≠ .busy ∧ ∃ w later, s.events = .init w :: later) ∨
    (t.phase = .busy ∧ s.phase = .idle ∧ ∃ later, s.events = .decodeRow :: later) ∨
    (t.phase = .idle ∧ s.phase = .busy ∧ s.col = s.rowWidth ∧ t.rowDone = true) ∨
    (t.phase = .error ∧ s.phase = .busy ∧ s.col ≠ s.rowWidth ∧ s.run = 0)

/-- The status register map, bit by bit, with the codes of PH (UNINIT 0, IDLE 1, BUSY 2, ERROR 3) and of ERR.CODE (no error
0, IO_ERROR 1, FMT_ILLEGAL_INDEX 2, FMT_ILLEGAL_RUN_LENGTH 3, FMT_UNKNOWN_TAG 4) (10_state, sections 5 and 6;
60_exceptions, section 1). -/
def Obligations.StatusRegisterMap : Prop :=
  ∀ s : State,
    (s.phase = .uninit → (statusRegister s 0).toNat = 0 + 4 * s.rowDone.toNat) ∧
    (s.phase = .idle → (statusRegister s 0).toNat = 1 + 4 * s.rowDone.toNat) ∧
    (s.phase = .busy → (statusRegister s 0).toNat = 2 + 4 * s.rowDone.toNat) ∧
    (s.phase = .error → (statusRegister s 0).toNat = 3 + 4 * s.rowDone.toNat) ∧
    (s.err.code = .none → (statusRegister s 1).toNat = 0 + 8 * s.err.sub.toNat + 256 * s.err.value.toNat) ∧
    (s.err.code = .ioError → (statusRegister s 1).toNat = 1 + 8 * s.err.sub.toNat + 256 * s.err.value.toNat) ∧
    (s.err.code = .illegalIndex → (statusRegister s 1).toNat = 2 + 8 * s.err.sub.toNat + 256 * s.err.value.toNat) ∧
    (s.err.code = .illegalRunLength → (statusRegister s 1).toNat = 3 + 8 * s.err.sub.toNat + 256 * s.err.value.toNat) ∧
    (s.err.code = .unknownTag → (statusRegister s 1).toNat = 4 + 8 * s.err.sub.toNat + 256 * s.err.value.toNat) ∧
    statusRegister s 2 = s.rowWidth ∧ statusRegister s 3 = s.col ∧ statusRegister s 4 = s.row ∧
    (statusRegister s 5).toNat = s.spos.toNat % 2 ^ 32 ∧ (statusRegister s 6).toNat = s.spos.toNat / 2 ^ 32 ∧
    (∀ n, 7 ≤ n → statusRegister s n = 0)

/-- A status read changes nothing but the reply (and the model's counter of free values), and gives the register of the
map wherever the spec gives it a value; for the registers unspecified in UNINIT nothing is said of the value
(45_host_commands; log entry 5). -/
def Obligations.StatusReadHasNoSideEffect : Prop :=
  ∀ (s : State) (n : Nat) (later : List Event), s.events = .readStatus n :: later → ∃ v d,
    step s = .next { s with events := later, replies := s.replies ++ [.status v], draws := d } ∧
    (s.phase ≠ .uninit ∨ n < 2 ∨ 6 < n → v = statusRegister s n)

/-- The two output lines: `row_done` is the flag, `error` is PH = ERROR, and in a state of the invariant they are never
both 1 (60_exceptions, section 4). -/
def Obligations.OutputLines : Prop :=
  ∀ s : State, (rowDoneLine s = s.rowDone) ∧ (errorLine s = true ↔ s.phase = .error) ∧
    (MachineInv s → ¬ (rowDoneLine s = true ∧ errorLine s = true))

/-- Hard reset, from any state: UNINIT, the flag, the error record and both lines clear; then DECODE_ROW is not accepted
and the core takes no step (70_reset_and_hazards, section 1). Nothing is said of the unspecified registers (log entry
3). That the host then has the reply `notAccepted` is the model's choice (log entry 6): the spec leaves the signalling to
the platform. -/
def Obligations.HardResetLeavesUninit : Prop :=
  ∀ (s : State) (later : List Event), s.events = .hardReset :: later → ∃ t,
    step s = .next t ∧ t.phase = .uninit ∧ t.rowDone = false ∧ t.err = ⟨.none, 0, 0⟩ ∧
    rowDoneLine t = false ∧ errorLine t = false ∧ t.events = later ∧ coreStep t = .next t ∧
    hostDecodeRow t = .next { t with replies := t.replies ++ [.notAccepted] }

/-- The power-on state: UNINIT, flag and error record clear, latches empty, lines low, a quiet core (10_state, section 8). The values of
the other registers are the model's (log entry 2), and nothing is said of them. -/
def Obligations.PowerOnState : Prop :=
  State.reset.phase = .uninit ∧ State.reset.rowDone = false ∧ State.reset.err = ⟨.none, 0, 0⟩ ∧ State.reset.latched = 0 ∧
  rowDoneLine State.reset = false ∧ errorLine State.reset = false ∧ step State.reset = .next State.reset

/-! ### Rules of the whole machine -/

/-- The invariant holds after power-on. -/
def Obligations.InvAtPowerOn : Prop := MachineInv State.reset

/-- Every step, from every state of the invariant, keeps it: the canonical image buffer, ERR.CODE nonzero exactly in
ERROR and then IO_ERROR with at most 4 bytes, in the latches only bytes of the opcode being fetched, ROW_DONE only in IDLE
with a full row, RUN at most 62, COL at most ROW_WIDTH, the cache invariant, ROW the number of rows done modulo 2^32
(10_state, sections 3, 7 and 8). -/
def Obligations.StepKeepsInv : Prop := ∀ s t : State, MachineInv s → step s = .next t → MachineInv t

/-- From every state of the invariant the machine steps: no fault, no refusal. -/
def Obligations.StepNeverStops : Prop := ∀ s : State, MachineInv s → ∃ t, step s = .next t

/-- The core never reads ahead: a step of the core consumes stream bytes only in an OPCODE step, at most five, and SPOS
counts them (20_memory, section 2; 10_state, section 4). -/
def Obligations.NoReadAhead : Prop :=
  ∀ s t : State, s.events = [] → step s = .next t → ∃ k, k ≤ 5 ∧ k ≤ s.sourceBytes.length ∧
    t.sourceBytes = s.sourceBytes.drop k ∧ t.spos = s.spos + BitVec.ofNat 64 k ∧
    (k ≠ 0 → s.phase = .busy ∧ s.col ≠ s.rowWidth ∧ s.run = 0)

/-- A step of the core sends at most one pixel, to slot COL, below ROW_WIDTH, and COL advances with it; a step that sends
none leaves COL and the image buffer alone (20_memory, section 3). -/
def Obligations.OnePixelPerStepInSlotOrder : Prop :=
  ∀ s t : State, s.events = [] → step s = .next t →
    (t.sent = s.sent ∧ t.col = s.col ∧ t.image = s.image) ∨
    (s.col < s.rowWidth ∧ ∃ px, Emits px s t ∧ px = t.last)

/-- Alpha is sticky: a step of the core changes the alpha of LAST only by LIT.RGBA and LOOKUP (70_reset_and_hazards,
section 3: an inference of the spec). -/
def Obligations.AlphaChangesOnlyByLitRgbaAndLookup : Prop :=
  ∀ s t : State, s.events = [] → step s = .next t → t.last.a ≠ s.last.a → ∃ i rest,
    decode s.sourceBytes = .instr i rest ∧ ((∃ r g b a, i = .litRgba r g b a) ∨ ∃ index, i = .lookup index)

/-- Exactly four opcodes write the cache, at the hash of the new LAST: LOOKUP, RUN, DRAIN and ROW-COMPLETE do not, and each
of LIT.RGB, LIT.RGBA, SDELTA and LDELTA does, in every state with a slot and an accepting sink (70_reset_and_hazards,
section 3). -/
def Obligations.OnlyCommitsWriteTheCache : Prop :=
  (∀ s t : State, s.events = [] → step s = .next t → t.cache ≠ s.cache →
    (∀ k, k ≠ pixelHash t.last → cacheRead t k = cacheRead s k) ∧ cacheRead t (pixelHash t.last) = pack t.last ∧
    ∃ i rest, decode s.sourceBytes = .instr i rest ∧ (∀ index, i ≠ .lookup index) ∧ (∀ f, i ≠ .run f)) ∧
  (∀ (i : Instr) (s : State), (∀ index, i ≠ .lookup index) → (∀ f, i ≠ .run f) → CanEmit s → ∃ t,
    exec i s = .next t ∧ cacheRead t (pixelHash t.last) = pack t.last)

/-- The diagnostic counters ROW and SPOS do not bear on decoding: a core step with other values in them does the same to
everything else (10_state, section 4). -/
def Obligations.CountersDoNotBearOnDecoding : Prop :=
  ∀ (s : State) (row : Word) (spos : BitVec 64),
    forgetCounters (coreStep (withCounters row spos s)) = forgetCounters (coreStep s)

/-- A row ends: with a source that answers and a sink that accepts, from any point of a row it is complete, or an
IOError was raised, once twice the slots left, plus 1, steps are counted, of which those after the end change nothing.
And with a source and a sink that need only answer and accept in the end: in every endless run that is weakly fair to
source, sink and core, and in which the host neither resets nor replaces the source in a row, every row that is under
way ends in IDLE with ROW_DONE set or in ERROR, whatever the other moves are (40_sequencer, section 2;
70_reset_and_hazards, section 4: inferences of the spec). That a move is one step is the model's (log entry 1), and how
the fairness is put is log entry 17. -/
def Obligations.RowEnds : Prop :=
  (∀ s : State, MachineInv s → s.phase = .busy → Flowing s → ∃ t,
    runSteps (2 * (s.rowWidth.toNat - s.col.toNat) + 1) s = .next t ∧
    ((t.phase = .idle ∧ t.rowDone = true ∧ t.col = s.rowWidth ∧ t.row = s.row + 1) ∨
      (t.phase = .error ∧ t.err.code = .ioError))) ∧
  (∀ (env : Nat → Event) (σ : Nat → State), IsRun env σ → Fair env σ → HostLeavesRow env σ →
    ∀ n, (σ n).phase = .busy → ∃ m, n < m ∧
      (((σ m).phase = .idle ∧ (σ m).rowDone = true) ∨ (σ m).phase = .error))

/-- The steps of a row are the source's `decode_row`: the same final state, with the same stream reads and the same
transfers in the same order, as its two loops (40_sequencer, section 5: an inference of the spec). -/
def Obligations.StepsOfARowAreDecodeRow : Prop :=
  ∀ s : State, MachineInv s → s.phase = .busy → Flowing s →
    runSteps (2 * (s.rowWidth.toNat - s.col.toNat) + 1) s = decodeRowRest s

/-! ### The container, outside the core -/

/-- The header parser takes width and height big-endian from a header of at least 14 bytes with the magic bytes, and answers
bad-magic for at least 14 bytes of which the first four are others (20_memory, section 2; 60_exceptions, section 1). For
fewer than 14 bytes it answers too-short, whatever the first four are: that, and the parser as such, are the model's choice
(log entry 16), since the spec puts the parser outside the core. -/
def Obligations.HeaderParsing : Prop :=
  (∀ (w3 w2 w1 w0 h3 h2 h1 h0 c k : Byte) (rest : List Byte), ∃ h,
    parseHeader (0x71 :: 0x6F :: 0x69 :: 0x66 :: w3 :: w2 :: w1 :: w0 :: h3 :: h2 :: h1 :: h0 :: c :: k :: rest) = .ok h rest ∧
    h.width.toNat = w3.toNat * 2 ^ 24 + w2.toNat * 2 ^ 16 + w1.toNat * 2 ^ 8 + w0.toNat ∧
    h.height.toNat = h3.toNat * 2 ^ 24 + h2.toNat * 2 ^ 16 + h1.toNat * 2 ^ 8 + h0.toNat ∧
    h.channels = c ∧ h.colorspace = k) ∧
  (∀ bytes : List Byte, 14 ≤ bytes.length → bytes.take 4 ≠ [0x71, 0x6F, 0x69, 0x66] → parseHeader bytes = .badMagic) ∧
  (∀ bytes : List Byte, bytes.length < 14 → parseHeader bytes = .tooShort)

/-! ### The latches at hard reset -/

/-- Hard reset empties the hidden latches: the bytes in them are gone, and of the stream nothing more is gone than the opcode
being fetched. No pixel is written but the one offered, which is the pixel the core's step would have sent had the sink
accepted, whole, to its slot, and that one only if its opcode's bytes are all gone. Whether it is, and how many undelivered
bytes go, is free (70_reset_and_hazards, section 1; 10_state, sections 7 and 8). That at most the bytes of one opcode go, and
the pixel only after all of them, is the model's choice (log entry 4). -/
def Obligations.HardResetEmptiesTheLatches : Prop :=
  ∀ (s : State) (later : List Event), MachineInv s → s.events = .hardReset :: later → ∃ t k,
    step s = .next t ∧ t.latched = 0 ∧
    s.latched ≤ k ∧ k ≤ bytesInFlight s ∧ t.sourceBytes = s.sourceBytes.drop k ∧
    ((t.sent = s.sent ∧ t.image = s.image) ∨
      (s.phase = .busy ∧ s.col < s.rowWidth ∧ k = bytesInFlight s ∧ ∃ px u,
        coreStep { s with events := later, sinkAccepts := true } = .next u ∧ u.sent = s.sent ++ [⟨s.col, px⟩] ∧
        t.sent = s.sent ++ [⟨s.col, px⟩] ∧ ReadsPixel t.image (outAddr s) px ∧
        (∀ a, a < outAddr s ∨ outAddr s + 4 ≤ a → t.image.read a = s.image.read a)))
end

