-- ==== Sys2Proof/Laws/Memory.lean ====
section
/-! SUPPORT. Byte memory: what a write changes, what it leaves alone, and that every operation keeps the canonical form. -/

namespace Sys2Proof.Machine

@[simp] theorem Memory.read_nil (a : Nat) : Memory.read [] a = Memory.blank := rfl

/-- Reading past a cell of the canonical constructor. -/
theorem Memory.read_cons_self (a : Nat) (v : Byte) (m : Memory) (h : v = Memory.blank → m.read a = Memory.blank) :
    (Memory.cons a v m).read a = v := by
  unfold Memory.cons
  split
  · rename_i hv; rw [h hv, hv]
  · simp [Memory.read]

theorem Memory.read_cons_other {a a' : Nat} (v : Byte) (m : Memory) (h : a' ≠ a) :
    (Memory.cons a v m).read a' = m.read a' := by
  unfold Memory.cons
  split
  · rfl
  · simp [Memory.read, h.symm]

/-- A write leaves every other address alone, in any list. -/
theorem Memory.read_write_other (m : Memory) {a a' : Nat} (v : Byte) (h : a' ≠ a) :
    (m.write a v).read a' = m.read a' := by
  induction m with
  | nil => simpa [Memory.write] using Memory.read_cons_other v [] h
  | cons c m ih =>
    obtain ⟨k, w⟩ := c
    simp only [Memory.write]
    split
    · exact Memory.read_cons_other v _ h
    · split
      · rename_i hk
        subst hk
        rw [Memory.read_cons_other v m h]
        simp [Memory.read, h.symm]
      · simp only [Memory.read, ih]

/-- Every address of `m` is above `a`: nothing is listed at `a`. -/
theorem Memory.read_of_lt (m : Memory) (a : Nat) (h : ∀ c ∈ m, a < c.1) : m.read a = Memory.blank := by
  induction m with
  | nil => rfl
  | cons c m ih =>
    obtain ⟨k, w⟩ := c
    have hk := h (k, w) (by simp)
    simp only [Memory.read]
    rw [if_neg (by simp at hk; omega)]
    exact ih fun c hc => h c (by simp [hc])

theorem Memory.wf_nil : Memory.wf [] := by simp [Memory.wf]

theorem Memory.wf_tail {c : Host.Cell} {m : Memory} (h : Memory.wf (c :: m)) : Memory.wf m :=
  ⟨(List.pairwise_cons.mp h.1).2, fun d hd => h.2 d (by simp [hd])⟩

theorem Memory.wf_above {c : Host.Cell} {m : Memory} (h : Memory.wf (c :: m)) : ∀ d ∈ m, c.1 < d.1 :=
  (List.pairwise_cons.mp h.1).1

/-- A write reads back, in a canonical memory. -/
theorem Memory.read_write_same (m : Memory) (a : Nat) (v : Byte) (hm : m.wf) : (m.write a v).read a = v := by
  induction m with
  | nil => exact Memory.read_cons_self a v [] fun _ => rfl
  | cons c m ih =>
    obtain ⟨k, w⟩ := c
    have above := Memory.wf_above hm
    simp only [Memory.write]
    split
    · rename_i hlt
      refine Memory.read_cons_self a v _ fun _ => Memory.read_of_lt _ a fun d hd => ?_
      rcases List.mem_cons.mp hd with rfl | hd
      · exact hlt
      · exact Nat.lt_trans hlt (above d hd)
    · split
      · rename_i hk
        subst hk
        exact Memory.read_cons_self a v m fun _ => Memory.read_of_lt m a above
      · rename_i hk
        simp only [Memory.read]
        rw [if_neg (Ne.symm hk)]
        exact ih (Memory.wf_tail hm)

theorem Memory.mem_cons {a : Nat} {v : Byte} {m : Memory} {c : Host.Cell} (h : c ∈ Memory.cons a v m) :
    c = (a, v) ∨ c ∈ m := by
  unfold Memory.cons at h
  split at h
  · exact .inr h
  · simpa using h

/-- A write lists no address but the old ones and its own. -/
theorem Memory.mem_write {a : Nat} {v : Byte} {m : Memory} {c : Host.Cell} (h : c ∈ m.write a v) :
    c = (a, v) ∨ c ∈ m := by
  induction m with
  | nil => exact Memory.mem_cons h
  | cons d m ih =>
    obtain ⟨k, w⟩ := d
    simp only [Memory.write] at h
    split at h
    · exact Memory.mem_cons h
    · split at h
      · exact (Memory.mem_cons h).imp_right (List.mem_cons_of_mem _)
      · rcases List.mem_cons.mp h with rfl | h
        · simp
        · exact (ih h).imp_right (List.mem_cons_of_mem _)

theorem Memory.wf_cons {a : Nat} (v : Byte) {m : Memory} (hm : m.wf) (h : ∀ c ∈ m, a < c.1) :
    (Memory.cons a v m).wf := by
  unfold Memory.cons
  split
  · exact hm
  · rename_i hv
    refine ⟨List.pairwise_cons.mpr ⟨h, hm.1⟩, fun c hc => ?_⟩
    rcases List.mem_cons.mp hc with rfl | hc
    · exact hv
    · exact hm.2 c hc

/-- A write keeps the canonical form. -/
theorem Memory.write_wf (m : Memory) (a : Nat) (v : Byte) (hm : m.wf) : (m.write a v).wf := by
  induction m with
  | nil => exact Memory.wf_cons v hm (by simp)
  | cons c m ih =>
    obtain ⟨k, w⟩ := c
    have above := Memory.wf_above hm
    have tail := Memory.wf_tail hm
    simp only [Memory.write]
    split
    · rename_i hlt
      refine Memory.wf_cons v hm fun d hd => ?_
      rcases List.mem_cons.mp hd with rfl | hd
      · exact hlt
      · exact Nat.lt_trans hlt (above d hd)
    · split
      · rename_i hk
        subst hk
        exact Memory.wf_cons v tail above
      · rename_i hlt hk
        refine ⟨List.pairwise_cons.mpr ⟨fun d hd => ?_, (ih tail).1⟩, fun d hd => ?_⟩
        · rcases Memory.mem_write hd with rfl | hd
          · simp only; omega
          · exact above d hd
        · rcases List.mem_cons.mp hd with rfl | hd
          · exact hm.2 _ (by simp)
          · exact (ih tail).2 d hd

/-- Writing a pixel keeps the canonical form. -/
theorem Memory.writePixel_wf (m : Memory) (a : Nat) (px : Pixel) (hm : m.wf) : (m.writePixel a px).wf :=
  Memory.write_wf _ _ _ (Memory.write_wf _ _ _ (Memory.write_wf _ _ _ (Memory.write_wf _ _ _ hm)))

/-- A pixel changes no byte outside its four. -/
theorem Memory.read_writePixel_other (m : Memory) (a : Nat) (px : Pixel) (x : Nat) (h : x < a ∨ a + 4 ≤ x) :
    (m.writePixel a px).read x = m.read x := by
  unfold Memory.writePixel
  rw [Memory.read_write_other _ _ (by omega), Memory.read_write_other _ _ (by omega),
    Memory.read_write_other _ _ (by omega), Memory.read_write_other _ _ (by omega)]

/-- Reset memory is canonical. -/
theorem reset_image_wf : State.reset.image.wf := Memory.wf_nil

end Sys2Proof.Machine
end

