-- ==== Sys2Proof/Laws/State.lean ====
section
/-! SUPPORT. One lemma per field per named state update: what the update puts there, or that it leaves the field alone. -/

namespace Sys2Proof.Machine

/-! ### cacheWrite -/

@[simp] theorem State.cacheWrite_last (s : State) (i : BitVec 6) (v : Word) : (s.cacheWrite i v).last = s.last := rfl
@[simp] theorem State.cacheWrite_run (s : State) (i : BitVec 6) (v : Word) : (s.cacheWrite i v).run = s.run := rfl
@[simp] theorem State.cacheWrite_cache (s : State) (i : BitVec 6) (v : Word) : (s.cacheWrite i v).cache = s.cache.set i.toNat v i.isLt := rfl
@[simp] theorem State.cacheWrite_rowWidth (s : State) (i : BitVec 6) (v : Word) : (s.cacheWrite i v).rowWidth = s.rowWidth := rfl
@[simp] theorem State.cacheWrite_col (s : State) (i : BitVec 6) (v : Word) : (s.cacheWrite i v).col = s.col := rfl
@[simp] theorem State.cacheWrite_row (s : State) (i : BitVec 6) (v : Word) : (s.cacheWrite i v).row = s.row := rfl
@[simp] theorem State.cacheWrite_spos (s : State) (i : BitVec 6) (v : Word) : (s.cacheWrite i v).spos = s.spos := rfl
@[simp] theorem State.cacheWrite_phase (s : State) (i : BitVec 6) (v : Word) : (s.cacheWrite i v).phase = s.phase := rfl
@[simp] theorem State.cacheWrite_rowDone (s : State) (i : BitVec 6) (v : Word) : (s.cacheWrite i v).rowDone = s.rowDone := rfl
@[simp] theorem State.cacheWrite_err (s : State) (i : BitVec 6) (v : Word) : (s.cacheWrite i v).err = s.err := rfl
@[simp] theorem State.cacheWrite_sourceBytes (s : State) (i : BitVec 6) (v : Word) : (s.cacheWrite i v).sourceBytes = s.sourceBytes := rfl
@[simp] theorem State.cacheWrite_latched (s : State) (i : BitVec 6) (v : Word) : (s.cacheWrite i v).latched = s.latched := rfl
@[simp] theorem State.cacheWrite_sourceEnd (s : State) (i : BitVec 6) (v : Word) : (s.cacheWrite i v).sourceEnd = s.sourceEnd := rfl
@[simp] theorem State.cacheWrite_sinkAccepts (s : State) (i : BitVec 6) (v : Word) : (s.cacheWrite i v).sinkAccepts = s.sinkAccepts := rfl
@[simp] theorem State.cacheWrite_image (s : State) (i : BitVec 6) (v : Word) : (s.cacheWrite i v).image = s.image := rfl
@[simp] theorem State.cacheWrite_sent (s : State) (i : BitVec 6) (v : Word) : (s.cacheWrite i v).sent = s.sent := rfl
@[simp] theorem State.cacheWrite_rowsDone (s : State) (i : BitVec 6) (v : Word) : (s.cacheWrite i v).rowsDone = s.rowsDone := rfl
@[simp] theorem State.cacheWrite_events (s : State) (i : BitVec 6) (v : Word) : (s.cacheWrite i v).events = s.events := rfl
@[simp] theorem State.cacheWrite_replies (s : State) (i : BitVec 6) (v : Word) : (s.cacheWrite i v).replies = s.replies := rfl
@[simp] theorem State.cacheWrite_draws (s : State) (i : BitVec 6) (v : Word) : (s.cacheWrite i v).draws = s.draws := rfl

/-! ### setLast -/

@[simp] theorem State.setLast_last (s : State) (px : Pixel) : (s.setLast px).last = px := rfl
@[simp] theorem State.setLast_run (s : State) (px : Pixel) : (s.setLast px).run = s.run := rfl
@[simp] theorem State.setLast_cache (s : State) (px : Pixel) : (s.setLast px).cache = s.cache := rfl
@[simp] theorem State.setLast_rowWidth (s : State) (px : Pixel) : (s.setLast px).rowWidth = s.rowWidth := rfl
@[simp] theorem State.setLast_col (s : State) (px : Pixel) : (s.setLast px).col = s.col := rfl
@[simp] theorem State.setLast_row (s : State) (px : Pixel) : (s.setLast px).row = s.row := rfl
@[simp] theorem State.setLast_spos (s : State) (px : Pixel) : (s.setLast px).spos = s.spos := rfl
@[simp] theorem State.setLast_phase (s : State) (px : Pixel) : (s.setLast px).phase = s.phase := rfl
@[simp] theorem State.setLast_rowDone (s : State) (px : Pixel) : (s.setLast px).rowDone = s.rowDone := rfl
@[simp] theorem State.setLast_err (s : State) (px : Pixel) : (s.setLast px).err = s.err := rfl
@[simp] theorem State.setLast_sourceBytes (s : State) (px : Pixel) : (s.setLast px).sourceBytes = s.sourceBytes := rfl
@[simp] theorem State.setLast_latched (s : State) (px : Pixel) : (s.setLast px).latched = s.latched := rfl
@[simp] theorem State.setLast_sourceEnd (s : State) (px : Pixel) : (s.setLast px).sourceEnd = s.sourceEnd := rfl
@[simp] theorem State.setLast_sinkAccepts (s : State) (px : Pixel) : (s.setLast px).sinkAccepts = s.sinkAccepts := rfl
@[simp] theorem State.setLast_image (s : State) (px : Pixel) : (s.setLast px).image = s.image := rfl
@[simp] theorem State.setLast_sent (s : State) (px : Pixel) : (s.setLast px).sent = s.sent := rfl
@[simp] theorem State.setLast_rowsDone (s : State) (px : Pixel) : (s.setLast px).rowsDone = s.rowsDone := rfl
@[simp] theorem State.setLast_events (s : State) (px : Pixel) : (s.setLast px).events = s.events := rfl
@[simp] theorem State.setLast_replies (s : State) (px : Pixel) : (s.setLast px).replies = s.replies := rfl
@[simp] theorem State.setLast_draws (s : State) (px : Pixel) : (s.setLast px).draws = s.draws := rfl

/-! ### setRun -/

@[simp] theorem State.setRun_last (s : State) (v : BitVec 6) : (s.setRun v).last = s.last := rfl
@[simp] theorem State.setRun_run (s : State) (v : BitVec 6) : (s.setRun v).run = v := rfl
@[simp] theorem State.setRun_cache (s : State) (v : BitVec 6) : (s.setRun v).cache = s.cache := rfl
@[simp] theorem State.setRun_rowWidth (s : State) (v : BitVec 6) : (s.setRun v).rowWidth = s.rowWidth := rfl
@[simp] theorem State.setRun_col (s : State) (v : BitVec 6) : (s.setRun v).col = s.col := rfl
@[simp] theorem State.setRun_row (s : State) (v : BitVec 6) : (s.setRun v).row = s.row := rfl
@[simp] theorem State.setRun_spos (s : State) (v : BitVec 6) : (s.setRun v).spos = s.spos := rfl
@[simp] theorem State.setRun_phase (s : State) (v : BitVec 6) : (s.setRun v).phase = s.phase := rfl
@[simp] theorem State.setRun_rowDone (s : State) (v : BitVec 6) : (s.setRun v).rowDone = s.rowDone := rfl
@[simp] theorem State.setRun_err (s : State) (v : BitVec 6) : (s.setRun v).err = s.err := rfl
@[simp] theorem State.setRun_sourceBytes (s : State) (v : BitVec 6) : (s.setRun v).sourceBytes = s.sourceBytes := rfl
@[simp] theorem State.setRun_latched (s : State) (v : BitVec 6) : (s.setRun v).latched = s.latched := rfl
@[simp] theorem State.setRun_sourceEnd (s : State) (v : BitVec 6) : (s.setRun v).sourceEnd = s.sourceEnd := rfl
@[simp] theorem State.setRun_sinkAccepts (s : State) (v : BitVec 6) : (s.setRun v).sinkAccepts = s.sinkAccepts := rfl
@[simp] theorem State.setRun_image (s : State) (v : BitVec 6) : (s.setRun v).image = s.image := rfl
@[simp] theorem State.setRun_sent (s : State) (v : BitVec 6) : (s.setRun v).sent = s.sent := rfl
@[simp] theorem State.setRun_rowsDone (s : State) (v : BitVec 6) : (s.setRun v).rowsDone = s.rowsDone := rfl
@[simp] theorem State.setRun_events (s : State) (v : BitVec 6) : (s.setRun v).events = s.events := rfl
@[simp] theorem State.setRun_replies (s : State) (v : BitVec 6) : (s.setRun v).replies = s.replies := rfl
@[simp] theorem State.setRun_draws (s : State) (v : BitVec 6) : (s.setRun v).draws = s.draws := rfl

/-! ### advance -/

@[simp] theorem State.advance_last (n : Nat) (s : State) : (s.advance n).last = s.last := rfl
@[simp] theorem State.advance_run (n : Nat) (s : State) : (s.advance n).run = s.run := rfl
@[simp] theorem State.advance_cache (n : Nat) (s : State) : (s.advance n).cache = s.cache := rfl
@[simp] theorem State.advance_rowWidth (n : Nat) (s : State) : (s.advance n).rowWidth = s.rowWidth := rfl
@[simp] theorem State.advance_col (n : Nat) (s : State) : (s.advance n).col = s.col := rfl
@[simp] theorem State.advance_row (n : Nat) (s : State) : (s.advance n).row = s.row := rfl
@[simp] theorem State.advance_spos (n : Nat) (s : State) : (s.advance n).spos = s.spos + BitVec.ofNat 64 n := rfl
@[simp] theorem State.advance_phase (n : Nat) (s : State) : (s.advance n).phase = s.phase := rfl
@[simp] theorem State.advance_rowDone (n : Nat) (s : State) : (s.advance n).rowDone = s.rowDone := rfl
@[simp] theorem State.advance_err (n : Nat) (s : State) : (s.advance n).err = s.err := rfl
@[simp] theorem State.advance_sourceBytes (n : Nat) (s : State) : (s.advance n).sourceBytes = s.sourceBytes.drop n := rfl
@[simp] theorem State.advance_latched (n : Nat) (s : State) : (s.advance n).latched = 0 := rfl
@[simp] theorem State.advance_sourceEnd (n : Nat) (s : State) : (s.advance n).sourceEnd = s.sourceEnd := rfl
@[simp] theorem State.advance_sinkAccepts (n : Nat) (s : State) : (s.advance n).sinkAccepts = s.sinkAccepts := rfl
@[simp] theorem State.advance_image (n : Nat) (s : State) : (s.advance n).image = s.image := rfl
@[simp] theorem State.advance_sent (n : Nat) (s : State) : (s.advance n).sent = s.sent := rfl
@[simp] theorem State.advance_rowsDone (n : Nat) (s : State) : (s.advance n).rowsDone = s.rowsDone := rfl
@[simp] theorem State.advance_events (n : Nat) (s : State) : (s.advance n).events = s.events := rfl
@[simp] theorem State.advance_replies (n : Nat) (s : State) : (s.advance n).replies = s.replies := rfl
@[simp] theorem State.advance_draws (n : Nat) (s : State) : (s.advance n).draws = s.draws := rfl

/-! ### latch -/

@[simp] theorem State.latch_last (n : Nat) (s : State) : (s.latch n).last = s.last := rfl
@[simp] theorem State.latch_run (n : Nat) (s : State) : (s.latch n).run = s.run := rfl
@[simp] theorem State.latch_cache (n : Nat) (s : State) : (s.latch n).cache = s.cache := rfl
@[simp] theorem State.latch_rowWidth (n : Nat) (s : State) : (s.latch n).rowWidth = s.rowWidth := rfl
@[simp] theorem State.latch_col (n : Nat) (s : State) : (s.latch n).col = s.col := rfl
@[simp] theorem State.latch_row (n : Nat) (s : State) : (s.latch n).row = s.row := rfl
@[simp] theorem State.latch_spos (n : Nat) (s : State) : (s.latch n).spos = s.spos := rfl
@[simp] theorem State.latch_phase (n : Nat) (s : State) : (s.latch n).phase = s.phase := rfl
@[simp] theorem State.latch_rowDone (n : Nat) (s : State) : (s.latch n).rowDone = s.rowDone := rfl
@[simp] theorem State.latch_err (n : Nat) (s : State) : (s.latch n).err = s.err := rfl
@[simp] theorem State.latch_sourceBytes (n : Nat) (s : State) : (s.latch n).sourceBytes = s.sourceBytes := rfl
@[simp] theorem State.latch_latched (n : Nat) (s : State) : (s.latch n).latched = n := rfl
@[simp] theorem State.latch_sourceEnd (n : Nat) (s : State) : (s.latch n).sourceEnd = s.sourceEnd := rfl
@[simp] theorem State.latch_sinkAccepts (n : Nat) (s : State) : (s.latch n).sinkAccepts = s.sinkAccepts := rfl
@[simp] theorem State.latch_image (n : Nat) (s : State) : (s.latch n).image = s.image := rfl
@[simp] theorem State.latch_sent (n : Nat) (s : State) : (s.latch n).sent = s.sent := rfl
@[simp] theorem State.latch_rowsDone (n : Nat) (s : State) : (s.latch n).rowsDone = s.rowsDone := rfl
@[simp] theorem State.latch_events (n : Nat) (s : State) : (s.latch n).events = s.events := rfl
@[simp] theorem State.latch_replies (n : Nat) (s : State) : (s.latch n).replies = s.replies := rfl
@[simp] theorem State.latch_draws (n : Nat) (s : State) : (s.latch n).draws = s.draws := rfl

/-! ### pushPixel -/

@[simp] theorem State.pushPixel_last (px : Pixel) (s : State) : (s.pushPixel px).last = s.last := rfl
@[simp] theorem State.pushPixel_run (px : Pixel) (s : State) : (s.pushPixel px).run = s.run := rfl
@[simp] theorem State.pushPixel_cache (px : Pixel) (s : State) : (s.pushPixel px).cache = s.cache := rfl
@[simp] theorem State.pushPixel_rowWidth (px : Pixel) (s : State) : (s.pushPixel px).rowWidth = s.rowWidth := rfl
@[simp] theorem State.pushPixel_col (px : Pixel) (s : State) : (s.pushPixel px).col = s.col + 1 := rfl
@[simp] theorem State.pushPixel_row (px : Pixel) (s : State) : (s.pushPixel px).row = s.row := rfl
@[simp] theorem State.pushPixel_spos (px : Pixel) (s : State) : (s.pushPixel px).spos = s.spos := rfl
@[simp] theorem State.pushPixel_phase (px : Pixel) (s : State) : (s.pushPixel px).phase = s.phase := rfl
@[simp] theorem State.pushPixel_rowDone (px : Pixel) (s : State) : (s.pushPixel px).rowDone = s.rowDone := rfl
@[simp] theorem State.pushPixel_err (px : Pixel) (s : State) : (s.pushPixel px).err = s.err := rfl
@[simp] theorem State.pushPixel_sourceBytes (px : Pixel) (s : State) : (s.pushPixel px).sourceBytes = s.sourceBytes := rfl
@[simp] theorem State.pushPixel_latched (px : Pixel) (s : State) : (s.pushPixel px).latched = s.latched := rfl
@[simp] theorem State.pushPixel_sourceEnd (px : Pixel) (s : State) : (s.pushPixel px).sourceEnd = s.sourceEnd := rfl
@[simp] theorem State.pushPixel_sinkAccepts (px : Pixel) (s : State) : (s.pushPixel px).sinkAccepts = s.sinkAccepts := rfl
@[simp] theorem State.pushPixel_image (px : Pixel) (s : State) : (s.pushPixel px).image = s.image.writePixel (outAddr s) px := rfl
@[simp] theorem State.pushPixel_sent (px : Pixel) (s : State) : (s.pushPixel px).sent = s.sent ++ [⟨s.col, px⟩] := rfl
@[simp] theorem State.pushPixel_rowsDone (px : Pixel) (s : State) : (s.pushPixel px).rowsDone = s.rowsDone := rfl
@[simp] theorem State.pushPixel_events (px : Pixel) (s : State) : (s.pushPixel px).events = s.events := rfl
@[simp] theorem State.pushPixel_replies (px : Pixel) (s : State) : (s.pushPixel px).replies = s.replies := rfl
@[simp] theorem State.pushPixel_draws (px : Pixel) (s : State) : (s.pushPixel px).draws = s.draws := rfl

/-! ### raised -/

@[simp] theorem State.raised_last (c : ErrCode) (b : BitVec 1) (v : Byte) (s : State) : (s.raised c b v).last = s.last := rfl
@[simp] theorem State.raised_run (c : ErrCode) (b : BitVec 1) (v : Byte) (s : State) : (s.raised c b v).run = s.run := rfl
@[simp] theorem State.raised_cache (c : ErrCode) (b : BitVec 1) (v : Byte) (s : State) : (s.raised c b v).cache = s.cache := rfl
@[simp] theorem State.raised_rowWidth (c : ErrCode) (b : BitVec 1) (v : Byte) (s : State) : (s.raised c b v).rowWidth = s.rowWidth := rfl
@[simp] theorem State.raised_col (c : ErrCode) (b : BitVec 1) (v : Byte) (s : State) : (s.raised c b v).col = s.col := rfl
@[simp] theorem State.raised_row (c : ErrCode) (b : BitVec 1) (v : Byte) (s : State) : (s.raised c b v).row = s.row := rfl
@[simp] theorem State.raised_spos (c : ErrCode) (b : BitVec 1) (v : Byte) (s : State) : (s.raised c b v).spos = s.spos := rfl
@[simp] theorem State.raised_phase (c : ErrCode) (b : BitVec 1) (v : Byte) (s : State) : (s.raised c b v).phase = .error := rfl
@[simp] theorem State.raised_rowDone (c : ErrCode) (b : BitVec 1) (v : Byte) (s : State) : (s.raised c b v).rowDone = s.rowDone := rfl
@[simp] theorem State.raised_err (c : ErrCode) (b : BitVec 1) (v : Byte) (s : State) : (s.raised c b v).err = ⟨c, b, v⟩ := rfl
@[simp] theorem State.raised_sourceBytes (c : ErrCode) (b : BitVec 1) (v : Byte) (s : State) : (s.raised c b v).sourceBytes = s.sourceBytes := rfl
@[simp] theorem State.raised_latched (c : ErrCode) (b : BitVec 1) (v : Byte) (s : State) : (s.raised c b v).latched = s.latched := rfl
@[simp] theorem State.raised_sourceEnd (c : ErrCode) (b : BitVec 1) (v : Byte) (s : State) : (s.raised c b v).sourceEnd = s.sourceEnd := rfl
@[simp] theorem State.raised_sinkAccepts (c : ErrCode) (b : BitVec 1) (v : Byte) (s : State) : (s.raised c b v).sinkAccepts = s.sinkAccepts := rfl
@[simp] theorem State.raised_image (c : ErrCode) (b : BitVec 1) (v : Byte) (s : State) : (s.raised c b v).image = s.image := rfl
@[simp] theorem State.raised_sent (c : ErrCode) (b : BitVec 1) (v : Byte) (s : State) : (s.raised c b v).sent = s.sent := rfl
@[simp] theorem State.raised_rowsDone (c : ErrCode) (b : BitVec 1) (v : Byte) (s : State) : (s.raised c b v).rowsDone = s.rowsDone := rfl
@[simp] theorem State.raised_events (c : ErrCode) (b : BitVec 1) (v : Byte) (s : State) : (s.raised c b v).events = s.events := rfl
@[simp] theorem State.raised_replies (c : ErrCode) (b : BitVec 1) (v : Byte) (s : State) : (s.raised c b v).replies = s.replies := rfl
@[simp] theorem State.raised_draws (c : ErrCode) (b : BitVec 1) (v : Byte) (s : State) : (s.raised c b v).draws = s.draws := rfl

/-! ### rowCompleted -/

@[simp] theorem State.rowCompleted_last (s : State) : (s.rowCompleted).last = s.last := rfl
@[simp] theorem State.rowCompleted_run (s : State) : (s.rowCompleted).run = s.run := rfl
@[simp] theorem State.rowCompleted_cache (s : State) : (s.rowCompleted).cache = s.cache := rfl
@[simp] theorem State.rowCompleted_rowWidth (s : State) : (s.rowCompleted).rowWidth = s.rowWidth := rfl
@[simp] theorem State.rowCompleted_col (s : State) : (s.rowCompleted).col = s.col := rfl
@[simp] theorem State.rowCompleted_row (s : State) : (s.rowCompleted).row = s.row + 1 := rfl
@[simp] theorem State.rowCompleted_spos (s : State) : (s.rowCompleted).spos = s.spos := rfl
@[simp] theorem State.rowCompleted_phase (s : State) : (s.rowCompleted).phase = .idle := rfl
@[simp] theorem State.rowCompleted_rowDone (s : State) : (s.rowCompleted).rowDone = true := rfl
@[simp] theorem State.rowCompleted_err (s : State) : (s.rowCompleted).err = s.err := rfl
@[simp] theorem State.rowCompleted_sourceBytes (s : State) : (s.rowCompleted).sourceBytes = s.sourceBytes := rfl
@[simp] theorem State.rowCompleted_latched (s : State) : (s.rowCompleted).latched = s.latched := rfl
@[simp] theorem State.rowCompleted_sourceEnd (s : State) : (s.rowCompleted).sourceEnd = s.sourceEnd := rfl
@[simp] theorem State.rowCompleted_sinkAccepts (s : State) : (s.rowCompleted).sinkAccepts = s.sinkAccepts := rfl
@[simp] theorem State.rowCompleted_image (s : State) : (s.rowCompleted).image = s.image := rfl
@[simp] theorem State.rowCompleted_sent (s : State) : (s.rowCompleted).sent = s.sent := rfl
@[simp] theorem State.rowCompleted_rowsDone (s : State) : (s.rowCompleted).rowsDone = s.rowsDone + 1 := rfl
@[simp] theorem State.rowCompleted_events (s : State) : (s.rowCompleted).events = s.events := rfl
@[simp] theorem State.rowCompleted_replies (s : State) : (s.rowCompleted).replies = s.replies := rfl
@[simp] theorem State.rowCompleted_draws (s : State) : (s.rowCompleted).draws = s.draws := rfl

/-! ### initialised -/

@[simp] theorem State.initialised_last (w : Word) (s : State) : (s.initialised w).last = ⟨0, 0, 0, 255⟩ := rfl
@[simp] theorem State.initialised_run (w : Word) (s : State) : (s.initialised w).run = 0 := rfl
@[simp] theorem State.initialised_cache (w : Word) (s : State) : (s.initialised w).cache = Vector.replicate 64 0 := rfl
@[simp] theorem State.initialised_rowWidth (w : Word) (s : State) : (s.initialised w).rowWidth = w := rfl
@[simp] theorem State.initialised_col (w : Word) (s : State) : (s.initialised w).col = 0 := rfl
@[simp] theorem State.initialised_row (w : Word) (s : State) : (s.initialised w).row = 0 := rfl
@[simp] theorem State.initialised_spos (w : Word) (s : State) : (s.initialised w).spos = 0 := rfl
@[simp] theorem State.initialised_phase (w : Word) (s : State) : (s.initialised w).phase = .idle := rfl
@[simp] theorem State.initialised_rowDone (w : Word) (s : State) : (s.initialised w).rowDone = false := rfl
@[simp] theorem State.initialised_err (w : Word) (s : State) : (s.initialised w).err = .clear := rfl
@[simp] theorem State.initialised_sourceBytes (w : Word) (s : State) : (s.initialised w).sourceBytes = s.sourceBytes.drop s.latched := rfl
@[simp] theorem State.initialised_latched (w : Word) (s : State) : (s.initialised w).latched = 0 := rfl
@[simp] theorem State.initialised_sourceEnd (w : Word) (s : State) : (s.initialised w).sourceEnd = s.sourceEnd := rfl
@[simp] theorem State.initialised_sinkAccepts (w : Word) (s : State) : (s.initialised w).sinkAccepts = s.sinkAccepts := rfl
@[simp] theorem State.initialised_image (w : Word) (s : State) : (s.initialised w).image = s.image := rfl
@[simp] theorem State.initialised_sent (w : Word) (s : State) : (s.initialised w).sent = s.sent := rfl
@[simp] theorem State.initialised_rowsDone (w : Word) (s : State) : (s.initialised w).rowsDone = 0 := rfl
@[simp] theorem State.initialised_events (w : Word) (s : State) : (s.initialised w).events = s.events := rfl
@[simp] theorem State.initialised_replies (w : Word) (s : State) : (s.initialised w).replies = s.replies := rfl
@[simp] theorem State.initialised_draws (w : Word) (s : State) : (s.initialised w).draws = s.draws := rfl

/-! ### rowStarted -/

@[simp] theorem State.rowStarted_last (s : State) : (s.rowStarted).last = s.last := rfl
@[simp] theorem State.rowStarted_run (s : State) : (s.rowStarted).run = s.run := rfl
@[simp] theorem State.rowStarted_cache (s : State) : (s.rowStarted).cache = s.cache := rfl
@[simp] theorem State.rowStarted_rowWidth (s : State) : (s.rowStarted).rowWidth = s.rowWidth := rfl
@[simp] theorem State.rowStarted_col (s : State) : (s.rowStarted).col = 0 := rfl
@[simp] theorem State.rowStarted_row (s : State) : (s.rowStarted).row = s.row := rfl
@[simp] theorem State.rowStarted_spos (s : State) : (s.rowStarted).spos = s.spos := rfl
@[simp] theorem State.rowStarted_phase (s : State) : (s.rowStarted).phase = .busy := rfl
@[simp] theorem State.rowStarted_rowDone (s : State) : (s.rowStarted).rowDone = false := rfl
@[simp] theorem State.rowStarted_err (s : State) : (s.rowStarted).err = s.err := rfl
@[simp] theorem State.rowStarted_sourceBytes (s : State) : (s.rowStarted).sourceBytes = s.sourceBytes := rfl
@[simp] theorem State.rowStarted_latched (s : State) : (s.rowStarted).latched = s.latched := rfl
@[simp] theorem State.rowStarted_sourceEnd (s : State) : (s.rowStarted).sourceEnd = s.sourceEnd := rfl
@[simp] theorem State.rowStarted_sinkAccepts (s : State) : (s.rowStarted).sinkAccepts = s.sinkAccepts := rfl
@[simp] theorem State.rowStarted_image (s : State) : (s.rowStarted).image = s.image := rfl
@[simp] theorem State.rowStarted_sent (s : State) : (s.rowStarted).sent = s.sent := rfl
@[simp] theorem State.rowStarted_rowsDone (s : State) : (s.rowStarted).rowsDone = s.rowsDone := rfl
@[simp] theorem State.rowStarted_events (s : State) : (s.rowStarted).events = s.events := rfl
@[simp] theorem State.rowStarted_replies (s : State) : (s.rowStarted).replies = s.replies := rfl
@[simp] theorem State.rowStarted_draws (s : State) : (s.rowStarted).draws = s.draws := rfl

/-! ### reply -/

@[simp] theorem State.reply_last (r : Reply) (s : State) : (s.reply r).last = s.last := rfl
@[simp] theorem State.reply_run (r : Reply) (s : State) : (s.reply r).run = s.run := rfl
@[simp] theorem State.reply_cache (r : Reply) (s : State) : (s.reply r).cache = s.cache := rfl
@[simp] theorem State.reply_rowWidth (r : Reply) (s : State) : (s.reply r).rowWidth = s.rowWidth := rfl
@[simp] theorem State.reply_col (r : Reply) (s : State) : (s.reply r).col = s.col := rfl
@[simp] theorem State.reply_row (r : Reply) (s : State) : (s.reply r).row = s.row := rfl
@[simp] theorem State.reply_spos (r : Reply) (s : State) : (s.reply r).spos = s.spos := rfl
@[simp] theorem State.reply_phase (r : Reply) (s : State) : (s.reply r).phase = s.phase := rfl
@[simp] theorem State.reply_rowDone (r : Reply) (s : State) : (s.reply r).rowDone = s.rowDone := rfl
@[simp] theorem State.reply_err (r : Reply) (s : State) : (s.reply r).err = s.err := rfl
@[simp] theorem State.reply_sourceBytes (r : Reply) (s : State) : (s.reply r).sourceBytes = s.sourceBytes := rfl
@[simp] theorem State.reply_latched (r : Reply) (s : State) : (s.reply r).latched = s.latched := rfl
@[simp] theorem State.reply_sourceEnd (r : Reply) (s : State) : (s.reply r).sourceEnd = s.sourceEnd := rfl
@[simp] theorem State.reply_sinkAccepts (r : Reply) (s : State) : (s.reply r).sinkAccepts = s.sinkAccepts := rfl
@[simp] theorem State.reply_image (r : Reply) (s : State) : (s.reply r).image = s.image := rfl
@[simp] theorem State.reply_sent (r : Reply) (s : State) : (s.reply r).sent = s.sent := rfl
@[simp] theorem State.reply_rowsDone (r : Reply) (s : State) : (s.reply r).rowsDone = s.rowsDone := rfl
@[simp] theorem State.reply_events (r : Reply) (s : State) : (s.reply r).events = s.events := rfl
@[simp] theorem State.reply_replies (r : Reply) (s : State) : (s.reply r).replies = s.replies ++ [r] := rfl
@[simp] theorem State.reply_draws (r : Reply) (s : State) : (s.reply r).draws = s.draws := rfl

/-! ### sourcePlaced -/

@[simp] theorem State.sourcePlaced_last (l : List Byte) (e : SourceEnd) (s : State) : (s.sourcePlaced l e).last = s.last := rfl
@[simp] theorem State.sourcePlaced_run (l : List Byte) (e : SourceEnd) (s : State) : (s.sourcePlaced l e).run = s.run := rfl
@[simp] theorem State.sourcePlaced_cache (l : List Byte) (e : SourceEnd) (s : State) : (s.sourcePlaced l e).cache = s.cache := rfl
@[simp] theorem State.sourcePlaced_rowWidth (l : List Byte) (e : SourceEnd) (s : State) : (s.sourcePlaced l e).rowWidth = s.rowWidth := rfl
@[simp] theorem State.sourcePlaced_col (l : List Byte) (e : SourceEnd) (s : State) : (s.sourcePlaced l e).col = s.col := rfl
@[simp] theorem State.sourcePlaced_row (l : List Byte) (e : SourceEnd) (s : State) : (s.sourcePlaced l e).row = s.row := rfl
@[simp] theorem State.sourcePlaced_spos (l : List Byte) (e : SourceEnd) (s : State) : (s.sourcePlaced l e).spos = s.spos := rfl
@[simp] theorem State.sourcePlaced_phase (l : List Byte) (e : SourceEnd) (s : State) : (s.sourcePlaced l e).phase = s.phase := rfl
@[simp] theorem State.sourcePlaced_rowDone (l : List Byte) (e : SourceEnd) (s : State) : (s.sourcePlaced l e).rowDone = s.rowDone := rfl
@[simp] theorem State.sourcePlaced_err (l : List Byte) (e : SourceEnd) (s : State) : (s.sourcePlaced l e).err = s.err := rfl
@[simp] theorem State.sourcePlaced_sourceBytes (l : List Byte) (e : SourceEnd) (s : State) : (s.sourcePlaced l e).sourceBytes = s.sourceBytes.take s.latched ++ l := rfl
@[simp] theorem State.sourcePlaced_latched (l : List Byte) (e : SourceEnd) (s : State) : (s.sourcePlaced l e).latched = s.latched := rfl
@[simp] theorem State.sourcePlaced_sourceEnd (l : List Byte) (e : SourceEnd) (s : State) : (s.sourcePlaced l e).sourceEnd = e := rfl
@[simp] theorem State.sourcePlaced_sinkAccepts (l : List Byte) (e : SourceEnd) (s : State) : (s.sourcePlaced l e).sinkAccepts = s.sinkAccepts := rfl
@[simp] theorem State.sourcePlaced_image (l : List Byte) (e : SourceEnd) (s : State) : (s.sourcePlaced l e).image = s.image := rfl
@[simp] theorem State.sourcePlaced_sent (l : List Byte) (e : SourceEnd) (s : State) : (s.sourcePlaced l e).sent = s.sent := rfl
@[simp] theorem State.sourcePlaced_rowsDone (l : List Byte) (e : SourceEnd) (s : State) : (s.sourcePlaced l e).rowsDone = s.rowsDone := rfl
@[simp] theorem State.sourcePlaced_events (l : List Byte) (e : SourceEnd) (s : State) : (s.sourcePlaced l e).events = s.events := rfl
@[simp] theorem State.sourcePlaced_replies (l : List Byte) (e : SourceEnd) (s : State) : (s.sourcePlaced l e).replies = s.replies := rfl
@[simp] theorem State.sourcePlaced_draws (l : List Byte) (e : SourceEnd) (s : State) : (s.sourcePlaced l e).draws = s.draws := rfl

/-! ### supplied -/

@[simp] theorem State.supplied_last (l : List Byte) (e : SourceEnd) (s : State) : (s.supplied l e).last = s.last := rfl
@[simp] theorem State.supplied_run (l : List Byte) (e : SourceEnd) (s : State) : (s.supplied l e).run = s.run := rfl
@[simp] theorem State.supplied_cache (l : List Byte) (e : SourceEnd) (s : State) : (s.supplied l e).cache = s.cache := rfl
@[simp] theorem State.supplied_rowWidth (l : List Byte) (e : SourceEnd) (s : State) : (s.supplied l e).rowWidth = s.rowWidth := rfl
@[simp] theorem State.supplied_col (l : List Byte) (e : SourceEnd) (s : State) : (s.supplied l e).col = s.col := rfl
@[simp] theorem State.supplied_row (l : List Byte) (e : SourceEnd) (s : State) : (s.supplied l e).row = s.row := rfl
@[simp] theorem State.supplied_spos (l : List Byte) (e : SourceEnd) (s : State) : (s.supplied l e).spos = s.spos := rfl
@[simp] theorem State.supplied_phase (l : List Byte) (e : SourceEnd) (s : State) : (s.supplied l e).phase = s.phase := rfl
@[simp] theorem State.supplied_rowDone (l : List Byte) (e : SourceEnd) (s : State) : (s.supplied l e).rowDone = s.rowDone := rfl
@[simp] theorem State.supplied_err (l : List Byte) (e : SourceEnd) (s : State) : (s.supplied l e).err = s.err := rfl
@[simp] theorem State.supplied_sourceBytes (l : List Byte) (e : SourceEnd) (s : State) : (s.supplied l e).sourceBytes = s.sourceBytes ++ l := rfl
@[simp] theorem State.supplied_latched (l : List Byte) (e : SourceEnd) (s : State) : (s.supplied l e).latched = s.latched := rfl
@[simp] theorem State.supplied_sourceEnd (l : List Byte) (e : SourceEnd) (s : State) : (s.supplied l e).sourceEnd = e := rfl
@[simp] theorem State.supplied_sinkAccepts (l : List Byte) (e : SourceEnd) (s : State) : (s.supplied l e).sinkAccepts = s.sinkAccepts := rfl
@[simp] theorem State.supplied_image (l : List Byte) (e : SourceEnd) (s : State) : (s.supplied l e).image = s.image := rfl
@[simp] theorem State.supplied_sent (l : List Byte) (e : SourceEnd) (s : State) : (s.supplied l e).sent = s.sent := rfl
@[simp] theorem State.supplied_rowsDone (l : List Byte) (e : SourceEnd) (s : State) : (s.supplied l e).rowsDone = s.rowsDone := rfl
@[simp] theorem State.supplied_events (l : List Byte) (e : SourceEnd) (s : State) : (s.supplied l e).events = s.events := rfl
@[simp] theorem State.supplied_replies (l : List Byte) (e : SourceEnd) (s : State) : (s.supplied l e).replies = s.replies := rfl
@[simp] theorem State.supplied_draws (l : List Byte) (e : SourceEnd) (s : State) : (s.supplied l e).draws = s.draws := rfl

/-! ### interrupted -/

@[simp] theorem State.interrupted_last (s : State) : (s.interrupted).last = s.last := rfl
@[simp] theorem State.interrupted_run (s : State) : (s.interrupted).run = s.run := rfl
@[simp] theorem State.interrupted_cache (s : State) : (s.interrupted).cache = s.cache := rfl
@[simp] theorem State.interrupted_rowWidth (s : State) : (s.interrupted).rowWidth = s.rowWidth := rfl
@[simp] theorem State.interrupted_col (s : State) : (s.interrupted).col = s.col := rfl
@[simp] theorem State.interrupted_row (s : State) : (s.interrupted).row = s.row := rfl
@[simp] theorem State.interrupted_spos (s : State) : (s.interrupted).spos = s.spos := rfl
@[simp] theorem State.interrupted_phase (s : State) : (s.interrupted).phase = s.phase := rfl
@[simp] theorem State.interrupted_rowDone (s : State) : (s.interrupted).rowDone = s.rowDone := rfl
@[simp] theorem State.interrupted_err (s : State) : (s.interrupted).err = s.err := rfl
@[simp] theorem State.interrupted_sourceBytes (s : State) : (s.interrupted).sourceBytes = s.sourceBytes.drop (bytesLost s) := rfl
@[simp] theorem State.interrupted_latched (s : State) : (s.interrupted).latched = 0 := rfl
@[simp] theorem State.interrupted_sourceEnd (s : State) : (s.interrupted).sourceEnd = s.sourceEnd := rfl
@[simp] theorem State.interrupted_sinkAccepts (s : State) : (s.interrupted).sinkAccepts = s.sinkAccepts := rfl
@[simp] theorem State.interrupted_rowsDone (s : State) : (s.interrupted).rowsDone = s.rowsDone := rfl
@[simp] theorem State.interrupted_events (s : State) : (s.interrupted).events = s.events := rfl
@[simp] theorem State.interrupted_replies (s : State) : (s.interrupted).replies = s.replies := rfl
@[simp] theorem State.interrupted_draws (s : State) : (s.interrupted).draws = s.draws := rfl

/-! ### registersLost -/

@[simp] theorem State.registersLost_phase (s : State) : (s.registersLost).phase = .uninit := rfl
@[simp] theorem State.registersLost_rowDone (s : State) : (s.registersLost).rowDone = false := rfl
@[simp] theorem State.registersLost_err (s : State) : (s.registersLost).err = .clear := rfl
@[simp] theorem State.registersLost_sourceBytes (s : State) : (s.registersLost).sourceBytes = s.sourceBytes := rfl
@[simp] theorem State.registersLost_latched (s : State) : (s.registersLost).latched = s.latched := rfl
@[simp] theorem State.registersLost_sourceEnd (s : State) : (s.registersLost).sourceEnd = s.sourceEnd := rfl
@[simp] theorem State.registersLost_sinkAccepts (s : State) : (s.registersLost).sinkAccepts = s.sinkAccepts := rfl
@[simp] theorem State.registersLost_image (s : State) : (s.registersLost).image = s.image := rfl
@[simp] theorem State.registersLost_sent (s : State) : (s.registersLost).sent = s.sent := rfl
@[simp] theorem State.registersLost_rowsDone (s : State) : (s.registersLost).rowsDone = s.rowsDone := rfl
@[simp] theorem State.registersLost_events (s : State) : (s.registersLost).events = s.events := rfl
@[simp] theorem State.registersLost_replies (s : State) : (s.registersLost).replies = s.replies := rfl
@[simp] theorem State.registersLost_draws (s : State) : (s.registersLost).draws = s.draws + 71 := rfl

/-! ### The output address does not depend on the other registers -/

@[simp] theorem outAddr_cacheWrite (s : State) (i : BitVec 6) (v : Word) : outAddr (s.cacheWrite i v) = outAddr s := rfl
@[simp] theorem outAddr_setLast (s : State) (px : Pixel) : outAddr (s.setLast px) = outAddr s := rfl
@[simp] theorem outAddr_setRun (s : State) (v : BitVec 6) : outAddr (s.setRun v) = outAddr s := rfl
@[simp] theorem outAddr_advance (n : Nat) (s : State) : outAddr (s.advance n) = outAddr s := rfl
@[simp] theorem outAddr_latch (n : Nat) (s : State) : outAddr (s.latch n) = outAddr s := rfl

/-! ### Reading the cache after an update -/

@[simp] theorem cacheRead_setLast (s : State) (px : Pixel) (i : BitVec 6) : cacheRead (s.setLast px) i = cacheRead s i := rfl
@[simp] theorem cacheRead_setRun (s : State) (v : BitVec 6) (i : BitVec 6) : cacheRead (s.setRun v) i = cacheRead s i := rfl
@[simp] theorem cacheRead_advance (n : Nat) (s : State) (i : BitVec 6) : cacheRead (s.advance n) i = cacheRead s i := rfl
@[simp] theorem cacheRead_latch (n : Nat) (s : State) (i : BitVec 6) : cacheRead (s.latch n) i = cacheRead s i := rfl
@[simp] theorem cacheRead_pushPixel (px : Pixel) (s : State) (i : BitVec 6) : cacheRead (s.pushPixel px) i = cacheRead s i := rfl
@[simp] theorem cacheRead_raised (c : ErrCode) (b : BitVec 1) (v : Byte) (s : State) (i : BitVec 6) :
    cacheRead (s.raised c b v) i = cacheRead s i := rfl
@[simp] theorem cacheRead_rowCompleted (s : State) (i : BitVec 6) : cacheRead s.rowCompleted i = cacheRead s i := rfl
@[simp] theorem cacheRead_rowStarted (s : State) (i : BitVec 6) : cacheRead s.rowStarted i = cacheRead s i := rfl
@[simp] theorem cacheRead_reply (r : Reply) (s : State) (i : BitVec 6) : cacheRead (s.reply r) i = cacheRead s i := rfl

/-- After INIT every entry is packed zero (10_state R17). -/
@[simp] theorem cacheRead_initialised (w : Word) (s : State) (i : BitVec 6) : cacheRead (s.initialised w) i = 0 := by
  simp [cacheRead]

/-- The entry written reads back. -/
@[simp] theorem cacheRead_cacheWrite_same (s : State) (i : BitVec 6) (v : Word) : cacheRead (s.cacheWrite i v) i = v := by
  simp [cacheRead]

/-- Every other entry reads as before. -/
theorem cacheRead_cacheWrite_other (s : State) {i j : BitVec 6} (v : Word) (h : j ≠ i) :
    cacheRead (s.cacheWrite i v) j = cacheRead s j := by
  have : i.toNat ≠ j.toNat := fun e => h (BitVec.eq_of_toNat_eq e.symm)
  simp [cacheRead, this]

end Sys2Proof.Machine
end

