-- ==== Sys2Proof/Laws/Ops.lean ====
section
/-! SUPPORT. What each shared operation can do, said once: cite these instead of unfolding the operations. -/

namespace Sys2Proof.Machine

@[simp] theorem hold_eq (s : State) : hold s = .next s := rfl

@[simp] theorem raise_eq (c : ErrCode) (b : BitVec 1) (v : Byte) (s : State) : raise c b v s = .next (s.raised c b v) := rfl

@[simp] theorem rowComplete_eq (s : State) : rowComplete s = .next s.rowCompleted := rfl

@[simp] theorem hardReset_eq (s : State) : hardReset s = .next s.interrupted.registersLost := rfl

@[simp] theorem andThen_next (s : State) (f : State → Result) : andThen (.next s) f = f s := rfl

/-- A chain answers next only through a next state of its first part. -/
theorem andThen_eq_next {o : Result} {f : State → Result} {t : State} (h : andThen o f = .next t) :
    ∃ s, o = .next s ∧ f s = .next t := by
  cases o with
  | next s => exact ⟨s, rfl, h⟩
  | fault r => cases h
  | refused r => cases h

/-- Emit in a row with a slot left. -/
theorem emit_of_slot {px : Pixel} {s : State} (h : s.col < s.rowWidth) : emit px s = .next (s.pushPixel px) := if_pos h

/-- If Emit answers next, the row had a slot left and one pixel was pushed. -/
theorem emit_next {px : Pixel} {s t : State} (h : emit px s = .next t) : s.col < s.rowWidth ∧ t = s.pushPixel px := by
  unfold emit at h
  split at h
  · rename_i hc; exact ⟨hc, by cases h; rfl⟩
  · cases h

/-- Emit stops only where the slot does not exist. -/
theorem emit_fault {px : Pixel} {s : State} {r : Fault} (h : emit px s = .fault r) : ¬ s.col < s.rowWidth := by
  intro hc
  rw [emit_of_slot hc] at h
  cases h

/-- The state a commit leaves. -/
def committed (px : Pixel) (s : State) : State := ((s.cacheWrite (pixelHash px) (pack px)).setLast px).pushPixel px

theorem commit_of_slot {px : Pixel} {s : State} (h : s.col < s.rowWidth) : commit px s = .next (committed px s) :=
  emit_of_slot (by simpa using h)

/-- If Commit answers next, the row had a slot left and the pixel was committed. -/
theorem commit_next {px : Pixel} {s t : State} (h : commit px s = .next t) : s.col < s.rowWidth ∧ t = committed px s := by
  obtain ⟨hc, ht⟩ := emit_next h
  exact ⟨by simpa using hc, ht⟩

theorem whenSinkAccepts_true {s u : State} {k : Result} (h : s.sinkAccepts = true) : whenSinkAccepts s u k = k := by
  simp [whenSinkAccepts, h]

theorem whenSinkAccepts_false {s u : State} {k : Result} (h : s.sinkAccepts = false) :
    whenSinkAccepts s u k = .next u := by
  simp [whenSinkAccepts, h]

/-- A step that emits either holds, or is the step. -/
theorem whenSinkAccepts_next {s u t : State} {k : Result} (h : whenSinkAccepts s u k = .next t) :
    (s.sinkAccepts = false ∧ t = u) ∨ (s.sinkAccepts = true ∧ k = .next t) := by
  unfold whenSinkAccepts at h
  split at h
  · rename_i hs; exact .inr ⟨hs, h⟩
  · rename_i hs
    refine .inl ⟨by simpa using hs, ?_⟩
    cases h; rfl

/-- A fetched opcode runs where the sink accepts. -/
theorem whenFetched_of_ready {n : Nat} {s : State} {k : State → Result} (h : s.sinkAccepts = true) :
    whenFetched n s k = k (s.advance n) := whenSinkAccepts_true h

/-- A fetched opcode waits in the latches where the sink does not accept. -/
theorem whenFetched_waits {n : Nat} {s : State} {k : State → Result} (h : s.sinkAccepts = false) :
    whenFetched n s k = .next (s.latch n) := whenSinkAccepts_false h

/-- A dry source raises IOError with the bytes it gave, or holds with them in the latches. -/
theorem sourceDry_next {k : Nat} {s t : State} (h : sourceDry k s = .next t) :
    (s.sourceEnd = .ends ∧ t = (s.advance k).raised .ioError 0 (BitVec.ofNat 8 k)) ∨
    (s.sourceEnd = .fails ∧ t = (s.advance k).raised .ioError 1 (BitVec.ofNat 8 k)) ∨
    (s.sourceEnd = .stalls ∧ t = s.latch k) := by
  unfold sourceDry at h
  split at h <;> rename_i he <;> cases h
  · exact .inl ⟨he, rfl⟩
  · exact .inr (.inl ⟨he, rfl⟩)
  · exact .inr (.inr ⟨he, rfl⟩)

/-! ### The meanings of the opcodes, where the row has a slot and the sink accepts -/

theorem execLitRgb_of_ready {r g b : Byte} {s : State} (hs : s.sinkAccepts = true) (hc : s.col < s.rowWidth) :
    execLitRgb r g b s = .next (committed (literalPixel s.last r g b) (s.advance 4)) := by
  rw [execLitRgb, whenFetched_of_ready hs, commit_of_slot (by simpa using hc)]

theorem execLitRgba_of_ready {r g b a : Byte} {s : State} (hs : s.sinkAccepts = true) (hc : s.col < s.rowWidth) :
    execLitRgba r g b a s = .next (committed ⟨r, g, b, a⟩ (s.advance 5)) := by
  rw [execLitRgba, whenFetched_of_ready hs, commit_of_slot (by simpa using hc)]

theorem execLookup_of_ready {index : Byte} {s : State} (hi : index.toNat < 64) (hs : s.sinkAccepts = true)
    (hc : s.col < s.rowWidth) :
    execLookup index s =
      .next (((s.advance 1).setLast (unpack (cacheRead s (lookupEntry index)))).pushPixel
        (unpack (cacheRead s (lookupEntry index)))) := by
  rw [execLookup, if_neg (by omega)]
  simp only [whenFetched_of_ready hs]
  exact emit_of_slot (by simpa using hc)

theorem execSdelta_of_ready {dr dg db : BitVec 2} {s : State} (hs : s.sinkAccepts = true) (hc : s.col < s.rowWidth) :
    execSdelta dr dg db s = .next (committed (smallDeltaPixel s.last dr dg db) (s.advance 1)) := by
  rw [execSdelta, whenFetched_of_ready hs, commit_of_slot (by simpa using hc)]

theorem execLdelta_of_ready {vg : BitVec 6} {drg dbg : BitVec 4} {s : State} (hs : s.sinkAccepts = true)
    (hc : s.col < s.rowWidth) :
    execLdelta vg drg dbg s = .next (committed (lumaDeltaPixel s.last vg drg dbg) (s.advance 2)) := by
  rw [execLdelta, whenFetched_of_ready hs, commit_of_slot (by simpa using hc)]

theorem execRun_of_legal {field : Byte} {s : State} (hf : field.toNat < 62) :
    execRun field s = .next ((s.advance 1).setRun (runLength field)) := if_neg (by omega)

theorem drain_of_ready {s : State} (hs : s.sinkAccepts = true) (hc : s.col < s.rowWidth) :
    drain s = .next ((s.setRun (s.run - 1)).pushPixel s.last) := by
  rw [drain, whenSinkAccepts_true hs]
  exact emit_of_slot (by simpa using hc)

/-! ### What the meanings can do, in any state -/

/-- A committing opcode holds, or commits its pixel after consuming its bytes. -/
theorem commitStep_next {px : Pixel} {n : Nat} {s t : State}
    (h : whenFetched n s (commit px) = .next t) :
    (s.sinkAccepts = false ∧ t = s.latch n) ∨
    (s.sinkAccepts = true ∧ s.col < s.rowWidth ∧ t = committed px (s.advance n)) := by
  rcases whenSinkAccepts_next h with hl | ⟨hs, hk⟩
  · exact .inl hl
  · obtain ⟨hc, ht⟩ := commit_next hk
    exact .inr ⟨hs, by simpa using hc, ht⟩

theorem execLitRgb_next {r g b : Byte} {s t : State} (h : execLitRgb r g b s = .next t) :
    (s.sinkAccepts = false ∧ t = s.latch 4) ∨
    (s.sinkAccepts = true ∧ s.col < s.rowWidth ∧ t = committed (literalPixel s.last r g b) (s.advance 4)) :=
  commitStep_next h

theorem execLitRgba_next {r g b a : Byte} {s t : State} (h : execLitRgba r g b a s = .next t) :
    (s.sinkAccepts = false ∧ t = s.latch 5) ∨
    (s.sinkAccepts = true ∧ s.col < s.rowWidth ∧ t = committed ⟨r, g, b, a⟩ (s.advance 5)) :=
  commitStep_next h

theorem execSdelta_next {dr dg db : BitVec 2} {s t : State} (h : execSdelta dr dg db s = .next t) :
    (s.sinkAccepts = false ∧ t = s.latch 1) ∨
    (s.sinkAccepts = true ∧ s.col < s.rowWidth ∧ t = committed (smallDeltaPixel s.last dr dg db) (s.advance 1)) :=
  commitStep_next h

theorem execLdelta_next {vg : BitVec 6} {drg dbg : BitVec 4} {s t : State} (h : execLdelta vg drg dbg s = .next t) :
    (s.sinkAccepts = false ∧ t = s.latch 2) ∨
    (s.sinkAccepts = true ∧ s.col < s.rowWidth ∧ t = committed (lumaDeltaPixel s.last vg drg dbg) (s.advance 2)) :=
  commitStep_next h

/-- LOOKUP raises its defensive error, holds, or emits the entry's pixel. -/
theorem execLookup_next {index : Byte} {s t : State} (h : execLookup index s = .next t) :
    (64 ≤ index.toNat ∧ t = (s.advance 1).raised .illegalIndex 0 index) ∨
    (index.toNat < 64 ∧ s.sinkAccepts = false ∧ t = s.latch 1) ∨
    (index.toNat < 64 ∧ s.sinkAccepts = true ∧ s.col < s.rowWidth ∧
      t = ((s.advance 1).setLast (unpack (cacheRead s (lookupEntry index)))).pushPixel
        (unpack (cacheRead s (lookupEntry index)))) := by
  unfold execLookup at h
  split at h
  · rename_i hi; exact .inl ⟨hi, by cases h; rfl⟩
  · rename_i hi
    have hi : index.toNat < 64 := by omega
    rcases whenSinkAccepts_next h with ⟨hs, ht⟩ | ⟨hs, hk⟩
    · exact .inr (.inl ⟨hi, hs, ht⟩)
    · obtain ⟨hc, ht⟩ := emit_next hk
      exact .inr (.inr ⟨hi, hs, by simpa using hc, ht⟩)

/-- RUN raises its defensive error, or sets the counter. -/
theorem execRun_next {field : Byte} {s t : State} (h : execRun field s = .next t) :
    (62 ≤ field.toNat ∧ t = (s.advance 1).raised .illegalRunLength 0 field) ∨
    (field.toNat < 62 ∧ t = (s.advance 1).setRun (runLength field)) := by
  unfold execRun at h
  split at h <;> rename_i hf <;> cases h
  · exact .inl ⟨hf, rfl⟩
  · exact .inr ⟨by omega, rfl⟩

/-- DRAIN holds, or emits LAST and counts down. -/
theorem drain_next {s t : State} (h : drain s = .next t) :
    (s.sinkAccepts = false ∧ t = s) ∨
    (s.sinkAccepts = true ∧ s.col < s.rowWidth ∧ t = (s.setRun (s.run - 1)).pushPixel s.last) := by
  rcases whenSinkAccepts_next h with hl | ⟨hs, hk⟩
  · exact .inl hl
  · obtain ⟨hc, ht⟩ := emit_next hk
    exact .inr ⟨hs, by simpa using hc, ht⟩

/-! ### The steps -/

/-- A core step is quiescent, ROW-COMPLETE, DRAIN or OPCODE (40_sequencer R80). -/
theorem coreStep_cases (s : State) :
    (s.phase ≠ .busy ∧ coreStep s = .next s) ∨
    (s.phase = .busy ∧ s.col = s.rowWidth ∧ coreStep s = .next s.rowCompleted) ∨
    (s.phase = .busy ∧ s.col ≠ s.rowWidth ∧ 0 < s.run ∧ coreStep s = drain s) ∨
    (s.phase = .busy ∧ s.col ≠ s.rowWidth ∧ s.run = 0 ∧ coreStep s = opcodeStep s) := by
  unfold coreStep
  by_cases hb : s.phase = .busy
  · rw [if_pos hb]
    by_cases hc : s.col = s.rowWidth
    · exact .inr (.inl ⟨hb, hc, by rw [if_pos hc]; rfl⟩)
    · rw [if_neg hc]
      by_cases hr : 0 < s.run
      · exact .inr (.inr (.inl ⟨hb, hc, hr, if_pos hr⟩))
      · refine .inr (.inr (.inr ⟨hb, hc, ?_, if_neg hr⟩))
        exact BitVec.eq_of_toNat_eq (by simpa [BitVec.lt_def] using hr)
  · exact .inl ⟨hb, if_neg hb⟩

theorem machineStep_quiet {s : State} (h : s.events = []) : machineStep s = coreStep s := by
  simp [machineStep, h]

theorem machineStep_event {s : State} {e : Event} {rest : List Event} (h : s.events = e :: rest) :
    machineStep s = handleEvent e { s with events := rest } := by
  simp [machineStep, h]

theorem hostInit_accepted {w : Word} {s : State} (h : s.phase ≠ .busy) :
    hostInit w s = .next ((s.initialised w).reply .accepted) := by
  cases hp : s.phase <;> simp_all [hostInit, acceptsInit]

theorem hostInit_refused {w : Word} {s : State} (h : s.phase = .busy) :
    hostInit w s = .next (s.reply .notAccepted) := by
  simp [hostInit, acceptsInit, h]

theorem hostDecodeRow_accepted {s : State} (h : s.phase = .idle) :
    hostDecodeRow s = .next (s.rowStarted.reply .accepted) := by
  simp [hostDecodeRow, acceptsDecodeRow, h]

theorem hostDecodeRow_refused {s : State} (h : s.phase ≠ .idle) :
    hostDecodeRow s = .next (s.reply .notAccepted) := by
  cases hp : s.phase <;> simp_all [hostDecodeRow, acceptsDecodeRow]

/-! ### What exec does, by constructor -/

theorem exec_litRgb (r g b : Byte) (s : State) : exec (.litRgb r g b) s = execLitRgb r g b s := rfl
theorem exec_litRgba (r g b a : Byte) (s : State) : exec (.litRgba r g b a) s = execLitRgba r g b a s := rfl
theorem exec_lookup (index : Byte) (s : State) : exec (.lookup index) s = execLookup index s := rfl
theorem exec_sdelta (dr dg db : BitVec 2) (s : State) : exec (.sdelta dr dg db) s = execSdelta dr dg db s := rfl
theorem exec_ldelta (vg : BitVec 6) (drg dbg : BitVec 4) (s : State) :
    exec (.ldelta vg drg dbg) s = execLdelta vg drg dbg s := rfl
theorem exec_run (field : Byte) (s : State) : exec (.run field) s = execRun field s := rfl

end Sys2Proof.Machine
end

