-- ==== Sys2Proof/Laws/PerInstr.lean ====
section
/-! SUPPORT. The family TagGivesLength: for every instruction, its tag selects its opcode and its encoding has the length
the tag gives (30_encoding R60, R63, R69). -/

namespace Sys2Proof.Laws.TagGivesLength

/-- The opcode an instruction belongs to (30_encoding R70). -/
def opcodeOf : Instr → Opcode
  | .litRgb _ _ _ => .litRgb
  | .litRgba _ _ _ _ => .litRgba
  | .lookup _ => .lookup
  | .sdelta _ _ _ => .sdelta
  | .ldelta _ _ _ => .ldelta
  | .run _ => .run

/-- The first byte of a well-formed instruction's encoding selects its opcode, and as many bytes follow as that opcode has
payload. -/
def Statement (i : Instr) : Prop :=
  WellFormed i → ∃ t p, encode i = t :: p ∧ classify t = some (opcodeOf i) ∧ p.length = payloadCount (opcodeOf i)

/-- Every 6-bit field under the LOOKUP prefix is a LOOKUP tag (30_encoding R63). -/
theorem classify_lookup (f : BitVec 6) : classify (0b00#2 ++ f) = some .lookup := by
  revert f; decide

/-- Every 6-bit field under the SDELTA prefix is an SDELTA tag. -/
theorem classify_sdelta (x y z : BitVec 2) : classify (0b01#2 ++ x ++ y ++ z) = some .sdelta := by
  revert x y z; decide

/-- Every 6-bit field under the LDELTA prefix is an LDELTA tag. -/
theorem classify_ldelta (f : BitVec 6) : classify (0b10#2 ++ f) = some .ldelta := by
  revert f; decide

/-- A field below 62 under the RUN prefix is a RUN tag; 62 and 63 are the literals (30_encoding R62). -/
theorem classify_run (f : BitVec 6) (h : f.toNat < 62) : classify (0b11#2 ++ f) = some .run := by
  revert f; decide

theorem litRgb (r g b : Byte) : Statement (.litRgb r g b) := fun _ => ⟨_, _, rfl, rfl, rfl⟩

theorem litRgba (r g b a : Byte) : Statement (.litRgba r g b a) := fun _ => ⟨_, _, rfl, rfl, rfl⟩

theorem lookup (index : Byte) : Statement (.lookup index) := fun _ => ⟨_, _, rfl, classify_lookup _, rfl⟩

theorem sdelta (dr dg db : BitVec 2) : Statement (.sdelta dr dg db) := fun _ =>
  ⟨_, _, rfl, classify_sdelta dr dg db, rfl⟩

theorem ldelta (vg : BitVec 6) (drg dbg : BitVec 4) : Statement (.ldelta vg drg dbg) := fun _ =>
  ⟨_, _, rfl, classify_ldelta vg, rfl⟩

theorem run (field : Byte) : Statement (.run field) := fun h =>
  ⟨_, _, rfl, classify_run _ (by
    have : field.toNat < 62 := of_decide_eq_true h
    rw [BitVec.toNat_setWidth]; omega), rfl⟩

end Sys2Proof.Laws.TagGivesLength
end

