-- ==== Sys2Proof/Laws/Step.lean ====
section
/-! SUPPORT. What a step of the core can do, said once (`CoreMoves`): invariants go by cases on it instead of unfolding
the step. -/

namespace Sys2Proof.Machine

/-- Every tag selects an opcode (30_encoding R63). -/
theorem classify_ne_none (t : Byte) : classify t ≠ none := by revert t; decide

theorem tagField_lt_of_lookup {t : Byte} (h : classify t = some .lookup) : (tagField t).toNat < 64 := by
  revert t; decide

theorem tagField_lt_of_run {t : Byte} (h : classify t = some .run) : (tagField t).toNat < 62 := by
  revert t; decide

/-- The decoder answers well-formed instructions only, and leaves the bytes after their encoding. -/
theorem decode_instr {bytes rest : List Byte} {i : Instr} (h : decode bytes = .instr i rest) :
    WellFormed i ∧ (encode i).length ≤ bytes.length ∧ rest = bytes.drop (encode i).length := by
  cases bytes with
  | nil => cases h
  | cons t p =>
    simp only [decode] at h
    split at h
    · cases h
    · split at h <;> cases h
      exact ⟨rfl, by simp [encode], rfl⟩
    · split at h <;> cases h
      exact ⟨rfl, by simp [encode], rfl⟩
    · rename_i hc
      cases h
      exact ⟨decide_eq_true (tagField_lt_of_lookup hc), by simp [encode], rfl⟩
    · cases h
      exact ⟨rfl, by simp [encode], rfl⟩
    · split at h <;> cases h
      exact ⟨rfl, by simp [encode], rfl⟩
    · rename_i hc
      cases h
      exact ⟨decide_eq_true (tagField_lt_of_run hc), by simp [encode], rfl⟩

/-- A decoded opcode has its whole encoding at the front of the stream. -/
theorem opcodeBytes_of_instr {bytes rest : List Byte} {i : Instr} (h : decode bytes = .instr i rest) :
    opcodeBytes bytes = (encode i).length := by
  cases bytes with
  | nil => cases h
  | cons t p =>
    simp only [decode] at h
    split at h
    · cases h
    all_goals rename_i hc
    · split at h <;> cases h
      simp [opcodeBytes, hc, encode, payloadCount]
    · split at h <;> cases h
      simp [opcodeBytes, hc, encode, payloadCount]
    · cases h; simp [opcodeBytes, hc, encode, payloadCount]
    · cases h; simp [opcodeBytes, hc, encode, payloadCount]
    · split at h <;> cases h
      simp [opcodeBytes, hc, encode, payloadCount]
    · cases h; simp [opcodeBytes, hc, encode, payloadCount]

/-- Further bytes of the stream do not change the opcode at its front. -/
theorem decode_append {bytes rest : List Byte} {i : Instr} (h : decode bytes = .instr i rest) (more : List Byte) :
    decode (bytes ++ more) = .instr i (rest ++ more) := by
  cases bytes with
  | nil => cases h
  | cons t p =>
    rw [List.cons_append]
    unfold decode at h ⊢
    cases hc : classify t with
    | none => simp only [hc] at h; cases h
    | some o =>
      simp only [hc] at h ⊢
      cases o <;> dsimp only at h ⊢
      all_goals first | (cases h; rfl) | (split at h <;> cases h; rfl)

/-- A truncated opcode has all the bytes the stream has. -/
theorem opcodeBytes_of_short {bytes : List Byte} {k : Nat} (h : decode bytes = .short k) : opcodeBytes bytes = k := by
  cases bytes with
  | nil => cases h; rfl
  | cons t p =>
    simp only [decode] at h
    split at h
    · cases h
    all_goals rename_i hc
    · split at h
      · cases h
      · rename_i hp
        cases h
        have : p.length < 3 := by
          match p, hp with
          | [], _ => decide
          | [_], _ => simp
          | [_, _], _ => simp
          | r :: g :: b :: rest, hp => exact absurd rfl (hp r g b rest)
        simp only [opcodeBytes, hc, payloadCount]; omega
    · split at h
      · cases h
      · rename_i hp
        cases h
        have : p.length < 4 := by
          match p, hp with
          | [], _ => decide
          | [_], _ => simp
          | [_, _], _ => simp
          | [_, _, _], _ => simp
          | r :: g :: b :: a :: rest, hp => exact absurd rfl (hp r g b a rest)
        simp only [opcodeBytes, hc, payloadCount]; omega
    · cases h
    · cases h
    · split at h
      · cases h
      · rename_i hp
        cases h
        have : p.length = 0 := by
          match p, hp with
          | [], _ => rfl
          | q :: rest, hp => exact absurd rfl (hp q rest)
        simp only [opcodeBytes, hc, payloadCount]; omega
    · cases h

/-- Further bytes of the stream make no opcode shorter. -/
theorem opcodeBytes_le_append (bytes more : List Byte) : opcodeBytes bytes ≤ opcodeBytes (bytes ++ more) := by
  cases bytes with
  | nil => simp [opcodeBytes]
  | cons t p =>
    simp only [opcodeBytes, List.cons_append]
    split
    · exact Nat.le_refl _
    · simp only [List.length_append]; omega

/-- What has arrived of an opcode stays part of it, whatever comes after. -/
theorem le_opcodeBytes_append {bytes : List Byte} {k : Nat} (h : k ≤ opcodeBytes bytes) (more : List Byte) :
    k ≤ opcodeBytes (bytes.take k ++ more) := by
  cases bytes with
  | nil => simp [opcodeBytes] at h; omega
  | cons t p =>
    cases k with
    | zero => omega
    | succ k =>
      simp only [opcodeBytes, List.take_succ_cons, List.cons_append] at h ⊢
      cases hc : classify t with
      | none => rw [hc] at h; exact h
      | some o =>
        rw [hc] at h
        simp only [List.length_append, List.length_take] at h ⊢
        omega

/-- No tag is unknown to the decoder. -/
theorem decode_ne_unknownTag (bytes : List Byte) (u : Byte) : decode bytes ≠ .unknownTag u := by
  intro h
  cases bytes with
  | nil => cases h
  | cons t p =>
    simp only [decode] at h
    split at h
    · rename_i hc; exact classify_ne_none t hc
    · split at h <;> cases h
    · split at h <;> cases h
    · cases h
    · cases h
    · split at h <;> cases h
    · cases h

/-- The opcodes that commit a pixel: all but LOOKUP and RUN (40_sequencer R91). -/
def Committing : Instr → Prop
  | .litRgb _ _ _ => True
  | .litRgba _ _ _ _ => True
  | .lookup _ => False
  | .sdelta _ _ _ => True
  | .ldelta _ _ _ => True
  | .run _ => False

/-- Where a committed pixel's alpha comes from: LIT.RGBA's operand, or LAST (70_reset_and_hazards R220). -/
def AlphaSource (i : Instr) (s : State) (px : Pixel) : Prop :=
  px.a = s.last.a ∨ ∃ r g b a, i = .litRgba r g b a

/-- What a step of the core can do. -/
inductive CoreMoves (s : State) : State → Prop where
  /-- nothing, outside BUSY -/
  | quiescent (phase : s.phase ≠ .busy) : CoreMoves s s
  /-- no register changes, held inside an opcode by the source or the sink; the opcode's bytes that are there are in the
  latches -/
  | held (n : Nat) (arrived : n = opcodeBytes s.sourceBytes) (busy : s.phase = .busy) (notFull : s.col ≠ s.rowWidth)
      (noRun : s.run = 0)
      (why : (s.sinkAccepts = false ∧ ∃ i rest, decode s.sourceBytes = .instr i rest ∧ ∀ f, i ≠ .run f) ∨
        (s.sourceEnd = .stalls ∧ ∃ k, decode s.sourceBytes = .short k)) :
      CoreMoves s (s.latch n)
  /-- nothing, held in DRAIN by the sink -/
  | drainHeld (busy : s.phase = .busy) (notFull : s.col ≠ s.rowWidth) (pending : 0 < s.run)
      (sink : s.sinkAccepts = false) : CoreMoves s s
  | rowComplete (busy : s.phase = .busy) (full : s.col = s.rowWidth) : CoreMoves s s.rowCompleted
  | drain (busy : s.phase = .busy) (slot : s.col < s.rowWidth) (pending : 0 < s.run) :
      CoreMoves s ((s.setRun (s.run - 1)).pushPixel s.last)
  | commit (i : Instr) (rest : List Byte) (px : Pixel) (n : Nat) (length : n = (encode i).length) (busy : s.phase = .busy) (slot : s.col < s.rowWidth)
      (noRun : s.run = 0) (opcode : decode s.sourceBytes = .instr i rest) (kind : Committing i)
      (alpha : AlphaSource i s px) :
      CoreMoves s (committed px (s.advance n))
  | lookup (index : Byte) (rest : List Byte) (busy : s.phase = .busy) (slot : s.col < s.rowWidth) (noRun : s.run = 0)
      (opcode : decode s.sourceBytes = .instr (.lookup index) rest) (legal : index.toNat < 64) :
      CoreMoves s (((s.advance 1).setLast (unpack (cacheRead s (lookupEntry index)))).pushPixel
        (unpack (cacheRead s (lookupEntry index))))
  | run (field : Byte) (rest : List Byte) (busy : s.phase = .busy) (notFull : s.col ≠ s.rowWidth) (noRun : s.run = 0)
      (opcode : decode s.sourceBytes = .instr (.run field) rest) (legal : field.toNat < 62) :
      CoreMoves s ((s.advance 1).setRun (runLength field))
  | ioError (k : Nat) (sub : BitVec 1) (busy : s.phase = .busy) (notFull : s.col ≠ s.rowWidth) (noRun : s.run = 0)
      (opcode : decode s.sourceBytes = .short k)
      (cause : (s.sourceEnd = .ends ∧ sub = 0) ∨ (s.sourceEnd = .fails ∧ sub = 1)) :
      CoreMoves s ((s.advance k).raised .ioError sub (BitVec.ofNat 8 k))

/-- An OPCODE step that answers next is one of the moves. -/
theorem opcodeStep_moves {s t : State} (busy : s.phase = .busy) (notFull : s.col ≠ s.rowWidth) (noRun : s.run = 0)
    (h : opcodeStep s = .next t) : CoreMoves s t := by
  unfold opcodeStep at h
  split at h
  · rename_i i rest hd
    have wf := (decode_instr hd).1
    have len := opcodeBytes_of_instr hd
    cases i with
    | litRgb r g b =>
      rw [exec_litRgb] at h
      rcases execLitRgb_next h with ⟨hs, rfl⟩ | ⟨hs, hc, rfl⟩
      · exact .held _ len.symm busy notFull noRun (.inl ⟨hs, _, rest, hd, fun f => Instr.noConfusion⟩)
      · exact .commit _ rest _ 4 rfl busy hc noRun hd trivial (.inl rfl)
    | litRgba r g b a =>
      rw [exec_litRgba] at h
      rcases execLitRgba_next h with ⟨hs, rfl⟩ | ⟨hs, hc, rfl⟩
      · exact .held _ len.symm busy notFull noRun (.inl ⟨hs, _, rest, hd, fun f => Instr.noConfusion⟩)
      · exact .commit _ rest _ 5 rfl busy hc noRun hd trivial (.inr ⟨r, g, b, a, rfl⟩)
    | lookup index =>
      rw [exec_lookup] at h
      have legal : index.toNat < 64 := of_decide_eq_true wf
      rcases execLookup_next h with ⟨hi, _⟩ | ⟨_, hs, rfl⟩ | ⟨_, hs, hc, rfl⟩
      · omega
      · exact .held _ len.symm busy notFull noRun (.inl ⟨hs, _, rest, hd, fun f => Instr.noConfusion⟩)
      · exact .lookup index rest busy hc noRun hd legal
    | sdelta dr dg db =>
      rw [exec_sdelta] at h
      rcases execSdelta_next h with ⟨hs, rfl⟩ | ⟨hs, hc, rfl⟩
      · exact .held _ len.symm busy notFull noRun (.inl ⟨hs, _, rest, hd, fun f => Instr.noConfusion⟩)
      · exact .commit _ rest _ 1 rfl busy hc noRun hd trivial (.inl rfl)
    | ldelta vg drg dbg =>
      rw [exec_ldelta] at h
      rcases execLdelta_next h with ⟨hs, rfl⟩ | ⟨hs, hc, rfl⟩
      · exact .held _ len.symm busy notFull noRun (.inl ⟨hs, _, rest, hd, fun f => Instr.noConfusion⟩)
      · exact .commit _ rest _ 2 rfl busy hc noRun hd trivial (.inl rfl)
    | run field =>
      rw [exec_run] at h
      have legal : field.toNat < 62 := of_decide_eq_true wf
      rcases execRun_next h with ⟨hf, _⟩ | ⟨_, rfl⟩
      · omega
      · exact .run field rest busy notFull noRun hd legal
  · rename_i k hd
    rcases sourceDry_next h with ⟨he, rfl⟩ | ⟨he, rfl⟩ | ⟨he, rfl⟩
    · exact .ioError k 0 busy notFull noRun hd (.inl ⟨he, rfl⟩)
    · exact .ioError k 1 busy notFull noRun hd (.inr ⟨he, rfl⟩)
    · exact .held k (opcodeBytes_of_short hd).symm busy notFull noRun (.inr ⟨he, k, hd⟩)
  · rename_i u hd
    exact absurd hd (decode_ne_unknownTag _ _)

/-- A step of the core that answers next is one of the moves. -/
theorem coreStep_moves {s t : State} (h : coreStep s = .next t) : CoreMoves s t := by
  rcases coreStep_cases s with ⟨hb, e⟩ | ⟨hb, hc, e⟩ | ⟨hb, hc, hr, e⟩ | ⟨hb, hc, hr, e⟩ <;> rw [e] at h
  · cases h; exact .quiescent hb
  · cases h; exact .rowComplete hb hc
  · rcases drain_next h with ⟨hs, rfl⟩ | ⟨hs, hl, rfl⟩
    · exact .drainHeld hb hc hr hs
    · exact .drain hb hl hr
  · exact opcodeStep_moves hb hc hr h

end Sys2Proof.Machine
end

