-- ==== Sys2Proof/Tests/Slice0.lean ====
section
/-! SUPPORT. The model's own tests: the refused terms of WellFormed, decoding of bytes written out from the spec, single
steps against the derived vectors of 95_test_vectors, and for every statement with hypotheses a state that meets them. -/

namespace Sys2Proof.Machine.Tests

/-! ### Well-formedness refuses what no encoding holds -/

theorem test_wellFormed_refuses_lookup_64 : ¬ WellFormed (.lookup 64) := by decide
theorem test_wellFormed_refuses_run_62 : ¬ WellFormed (.run 62) := by decide
theorem test_wellFormed_lookup_63 : WellFormed (.lookup 63) := by decide
theorem test_wellFormed_run_61 : WellFormed (.run 61) := by decide

/-! ### Decoding, by bits of 30_encoding R60 and R64 -/

/-- V-LA3 of 95_test_vectors: payload bytes FE are data. -/
theorem test_decode_litRgb_payload_is_data : decode [0xFE, 0xFE, 0xFE, 0xFE] = .instr (.litRgb 254 254 254) [] := by decide
/-- V-LA2: payload bytes FF are data. -/
theorem test_decode_litRgba_payload_is_data :
    decode [0xFF, 0xFF, 0xFF, 0xFF, 0xFF, 0x00] = .instr (.litRgba 255 255 255 255) [0x00] := by decide
/-- V-SD6: 4B = 01 00 10 11 has fields 0, 2, 3. -/
theorem test_decode_sdelta_bits : decode [0b01001011] = .instr (.sdelta 0 2 3) [] := by decide
/-- V-LD4: A0 F0 has fields 32, 15, 0. -/
theorem test_decode_ldelta_bits : decode [0b10100000, 0b11110000] = .instr (.ldelta 32 15 0) [] := by decide
/-- FD is the longest run (44_run R136); FE is not a run (30_encoding R62). -/
theorem test_decode_run_longest : decode [0b11111101] = .instr (.run 61) [] := by decide
/-- 3F is the last LOOKUP (30_encoding R63). -/
theorem test_decode_lookup_last : decode [0b00111111] = .instr (.lookup 63) [] := by decide

/-! ### Single steps -/

/-- After INIT(w) and DECODE_ROW, with a stream that ends after `bytes`. -/
def rowOf (w : Word) (bytes : List Byte) : State :=
  { (State.reset.initialised w).rowStarted with sourceBytes := bytes, sourceEnd := .ends }

/-- The next state of a step; the state itself where it stops. -/
def after (s : State) : State :=
  match step s with
  | .next t => t
  | .fault _ => s
  | .refused _ => s

/-- V-LR1: the pixel with alpha 255 from the initial LAST, cached at 23, 4 bytes. -/
theorem test_litRgb_first_pixel :
    let t := after (rowOf 1 [0xFE, 1, 2, 3])
    t.last = ⟨1, 2, 3, 255⟩ ∧ cacheRead t 23 = 0x010203FF ∧ t.spos = 4 ∧ t.col = 1 := by decide

/-- V-LR2, second opcode: alpha 128 carried, cached at 34. -/
theorem test_litRgb_carries_alpha :
    let t := after ((rowOf 2 [0xFE, 1, 2, 3]).setLast ⟨10, 11, 12, 128⟩)
    t.last = ⟨1, 2, 3, 128⟩ ∧ cacheRead t 34 = 0x01020380 := by decide

/-- P1: the pixel as read, cached at 32, output bytes 10 20 30 40. -/
theorem test_litRgba_source_example :
    let t := after (rowOf 1 [0xFF, 0x10, 0x20, 0x30, 0x40])
    t.last = ⟨16, 32, 48, 64⟩ ∧ cacheRead t 32 = 0x10203040 ∧ t.spos = 5 ∧
    t.image = [(0, 0x10), (1, 0x20), (2, 0x30), (3, 0x40)] := by decide

/-- V-LA1: a zero pixel leaves the output bytes zero, so nothing is listed. -/
theorem test_litRgba_zero_pixel :
    let t := after (rowOf 1 [0xFF, 0, 0, 0, 0])
    t.last = ⟨0, 0, 0, 0⟩ ∧ t.image = [] ∧ t.sent = [⟨0, ⟨0, 0, 0, 0⟩⟩] := by decide

/-- V-LK1: a never-written entry gives alpha 0, not 255. -/
theorem test_lookup_never_written :
    let t := after (rowOf 1 [0x00])
    t.last = ⟨0, 0, 0, 0⟩ ∧ t.spos = 1 ∧ t.col = 1 := by decide

/-- P5, second step: LOOKUP 5 does not write its pixel, whose hash is 0, into entry 0. -/
theorem test_lookup_does_not_reinsert :
    let t := after ((rowOf 3 [0x05, 0x00]).cacheWrite 0 0x80808080)
    t.last = ⟨0, 0, 0, 0⟩ ∧ cacheRead t 0 = 0x80808080 := by decide

/-- V-SD5: +1, -2, 0 from (0,0,0,255) is (1,254,0,255), cached at 46; tells the field orders apart. -/
theorem test_sdelta_field_order :
    let t := after (rowOf 1 [0x72])
    t.last = ⟨1, 254, 0, 255⟩ ∧ cacheRead t 46 = 0x01FE00FF ∧ t.spos = 1 := by decide

/-- V-SD6: blue wraps 255 + 1 = 0, red 2 - 2 = 0, green untouched. -/
theorem test_sdelta_wraps_by_lane :
    (after ((rowOf 2 [0x4B]).setLast ⟨2, 0, 255, 255⟩)).last = ⟨0, 0, 0, 255⟩ := by decide

/-- V-LD4: (7,0,248,255), cached at 18; tells the nibble orders apart. -/
theorem test_ldelta_nibble_order :
    let t := after (rowOf 1 [0xA0, 0xF0])
    t.last = ⟨7, 0, 248, 255⟩ ∧ cacheRead t 18 = 0x0700F8FF ∧ t.spos = 2 := by decide

/-- V-LD6: 240 plus 38, 31, 38 wraps in all three channels. -/
theorem test_ldelta_wraps :
    (after ((rowOf 2 [0xBF, 0xFF]).setLast ⟨240, 240, 240, 255⟩)).last = ⟨22, 15, 22, 255⟩ := by decide

/-- V-RN2, first step: RUN 62 sets the counter and emits nothing. -/
theorem test_run_sets_the_counter :
    let t := after (rowOf 62 [0xFD])
    t.run = 62 ∧ t.sent = [] ∧ t.col = 0 ∧ t.spos = 1 := by decide

/-- The field 62, which no encoding holds, raises FMT_ILLEGAL_RUN_LENGTH with the field (60_exceptions R169). -/
theorem test_run_illegal_length :
    (match exec (.run 62) (rowOf 1 []) with
      | .next t => decide (t.phase = .error ∧ t.err = ⟨.illegalRunLength, 0, 62⟩ ∧ t.run = 0)
      | _ => false) = true := by decide

/-- 44_run R138, its example. -/
theorem test_drain_example :
    let t := after (((rowOf 2 []).setLast ⟨5, 6, 7, 255⟩).setRun 3)
    t.sent = [⟨0, ⟨5, 6, 7, 255⟩⟩] ∧ t.run = 2 ∧ t.col = 1 ∧ t.spos = 0 := by decide

/-- V-ER4: four of five bytes arrived; ERR (1,0,4), SPOS 4, LAST untouched. -/
theorem test_truncated_litRgba :
    let t := after (rowOf 1 [0xFF, 1, 2, 3])
    t.phase = .error ∧ t.err = ⟨.ioError, 0, 4⟩ ∧ t.spos = 4 ∧ t.last = ⟨0, 0, 0, 255⟩ := by decide

/-- V-ER6: `Fail` in mid-opcode gives ERR (1,1,2). -/
theorem test_failed_litRgb :
    (after { rowOf 1 [0xFE, 0x01] with sourceEnd := .fails }).err = ⟨.ioError, 1, 2⟩ := by decide

/-- V-SQ6: a stall in mid-opcode holds the core with SPOS 0; the two bytes are in the latches (10_state R28). -/
theorem test_stall_holds :
    let s := { rowOf 2 [0xFE, 0x01] with sourceEnd := .stalls }
    after s = { s with latched := 2 } ∧ (after s).spos = 0 := by decide

/-- A source placed while the core is held comes after the bytes in the latches (20_memory R44). -/
theorem test_source_placed_in_mid_opcode :
    let s := { rowOf 2 [0xFE, 0x01] with sourceEnd := .stalls }
    after { after s with events := [.placeSource [0x02, 0x03] .ends] } =
      { s with latched := 2, sourceBytes := [0xFE, 0x01, 0x02, 0x03], sourceEnd := .ends } := by decide

/-- Hard reset empties the latches: the bytes delivered before it are not decoded after it (70_reset_and_hazards R200). -/
theorem test_hardReset_empties_the_latches :
    let s := after { rowOf 2 [0xFE, 0x01] with sourceEnd := .stalls }
    s.interrupted.registersLost.sourceBytes = [] ∧ s.interrupted.registersLost.latched = 0 := by
  refine ⟨?_, rfl⟩
  show List.drop (2 + Config.freeCount 0 % 1) [0xFE#8, 0x01#8] = []
  rw [Nat.mod_one]; rfl

/-- V-SQ2: DECODE_ROW after reset is not accepted. -/
theorem test_decodeRow_in_uninit :
    let t := after { State.reset with events := [.decodeRow] }
    t.phase = .uninit ∧ t.replies = [.notAccepted] := by decide

/-- V-SQ7: status after V-LR1. -/
theorem test_status_after_one_row :
    let s := { rowOf 1 [] with phase := .idle, rowDone := true, col := 1, row := 1, spos := 4 }
    statusRegister s 0 = 5 ∧ statusRegister s 1 = 0 ∧ statusRegister s 2 = 1 ∧ statusRegister s 3 = 1 ∧
    statusRegister s 4 = 1 ∧ statusRegister s 5 = 4 ∧ statusRegister s 6 = 0 ∧ statusRegister s 7 = 0 := by decide

/-- S3: the container's header is 1 wide, 1 high, and the stream begins at byte 14. -/
theorem test_header_source_example :
    parseHeader [0x71, 0x6F, 0x69, 0x66, 0, 0, 0, 1, 0, 0, 0, 1, 4, 0, 0xFF, 0x10, 0x20, 0x30, 0x40]
      = .ok ⟨1, 1, 4, 0⟩ [0xFF, 0x10, 0x20, 0x30, 0x40] := by decide

/-! ### States that meet the hypotheses of the statements -/

/-- In the middle of a row of 3, at an opcode: LIT.RGB has been fetched up to `rest`. -/
def ready : State := rowOf 3 [0xFE, 5, 6, 7, 0xC1]

/-- The row is full, a run is pending. -/
def fullRow : State := { (rowOf 2 []).setRun 1 with col := 2 }

/-- A run is pending and the row has a slot. -/
def pendingRun : State := ((rowOf 2 []).setLast ⟨5, 6, 7, 255⟩).setRun 3

/-- An error was raised. -/
def failed : State := (rowOf 1 []).raised .ioError 0 0

/-- Held by the source inside LIT.RGB, two bytes of it in the latches; hard reset comes next. -/
def heldAtReset : State :=
  { rowOf 3 [0xFE, 5] with sourceEnd := .stalls, latched := 2, events := [.hardReset] }

/-- Between two rows. -/
def idle : State := State.reset.initialised 0

theorem test_witness_canEmit : CanEmit ready := ⟨by decide, by decide⟩
theorem test_witness_atOpcode : AtOpcode ready := ⟨by decide, by decide, by decide, by decide⟩
theorem test_witness_flowing : Flowing ready := ⟨by decide, by decide, by decide⟩

/-- RowEnds, StepsOfARowAreDecodeRow, StepKeepsInv, StepNeverStops: a state of the invariant in BUSY. -/
theorem test_witness_machineInv : MachineInv ready ∧ ready.phase = .busy ∧ Flowing ready :=
  ⟨⟨Memory.wf_nil, by decide, by decide, by decide, by decide, by decide, by decide, by decide,
    fun _ i => .inl (by simp [ready, rowOf, State.rowStarted, State.initialised, cacheRead]), by decide⟩,
    by decide, test_witness_flowing⟩

/-- StepKeepsInv: and a step from it answers next. -/
theorem test_witness_StepKeepsInv : step ready = .next (after ready) := by rfl

/-- HardResetEmptiesTheLatches: a state of the invariant with bytes in the latches. -/
theorem test_witness_HardResetEmptiesTheLatches :
    MachineInv heldAtReset ∧ heldAtReset.events = .hardReset :: [] ∧ heldAtReset.latched = 2 :=
  ⟨⟨Memory.wf_nil, by decide, by decide, by decide, by decide, by decide, by decide, by decide,
    fun _ i => .inl (by simp [heldAtReset, rowOf, State.rowStarted, State.initialised, cacheRead]), by decide⟩,
    by decide, by decide⟩

/-- OutputLines: a state of the invariant with `row_done` high. -/
theorem test_witness_OutputLines :
    let s := { rowOf 0 [] with phase := .idle, rowDone := true, row := 1, rowsDone := 1 }
    MachineInv s ∧ rowDoneLine s = true :=
  ⟨⟨Memory.wf_nil, by decide, by decide, by decide, by decide, by decide, by decide, by decide,
    fun _ i => .inl (by simp [rowOf, State.rowStarted, State.initialised, cacheRead]), by decide⟩, by decide⟩

theorem test_witness_DecodeOfEncodeIsTheInstruction : WellFormed (.ldelta 63 15 0) := by decide
theorem test_witness_DecodedBytesAreTheEncoding : decode [0xA5, 0x5F, 0x00] = .instr (.ldelta 37 5 15) [0x00] := by decide

/-- DecoderIsTotal: a list of five bytes, and a short one of four. -/
theorem test_witness_DecoderIsTotal :
    5 ≤ [0xFF#8, 1, 2, 3, 4].length ∧ decode [0xFF, 1, 2, 3] = .short 4 ∧ decode [] = .short 0 := by decide

/-- TagSelectsOpcode: the ends of the four ranges. -/
theorem test_witness_TagSelectsOpcode :
    ([0x00#8, 0x3F].all (·.toNat / 64 == 0) && [0x40#8, 0x7F].all (·.toNat / 64 == 1) &&
      [0x80#8, 0xBF].all (·.toNat / 64 == 2) && [0xC0#8, 0xFD].all (·.toNat / 64 == 3)) = true := by decide

/-- RunLengthsAreOneToSixtyTwo: both ends. -/
theorem test_witness_RunLengthsAreOneToSixtyTwo :
    decode [0xC0] = .instr (.run 0) [] ∧ decode [0xFD] = .instr (.run 61) [] := by decide

theorem test_witness_PlacedWordRunsNext : decodeTableWord 16 0x5FA5 = some (.ldelta 37 5 15) := by decide

/-- EmitWritesOnePixel, CommitUpdatesCacheLastAndOutput: the last slot of a row, and a canonical image buffer. -/
theorem test_witness_Emit : fullRow.col - 1 < fullRow.rowWidth ∧ ready.col < ready.rowWidth ∧ ready.image.wf := by decide

/-- LookupEmitsTheCacheEntry, LookupOfZeroEntryIsTransparentBlack. -/
theorem test_witness_Lookup : (63#8).toNat < 64 ∧ CanEmit ready ∧ cacheRead ready 63 = 0 :=
  ⟨by decide, test_witness_canEmit, by decide⟩

theorem test_witness_RunSetsTheCounter : (61#8).toNat < 62 := by decide

/-- LookupAfterCommitGivesThePixel: a commit that leaves a slot. -/
theorem test_witness_LookupAfterCommit : ∃ t, commit ⟨1, 2, 3, 4⟩ ready = .next t ∧ CanEmit t :=
  ⟨_, rfl, by decide, by decide⟩

/-- IllegalIndexIsRaisedAndUnreachable: both clauses at the boundary. -/
theorem test_witness_IllegalIndex : 64 ≤ (64#8).toNat ∧ decode [0x3F] = .instr (.lookup 63) [] := by decide

/-- IllegalRunLengthIsRaisedAndUnreachable: both clauses at the boundary. -/
theorem test_witness_IllegalRunLength : 62 ≤ (62#8).toNat ∧ decode [0xFD] = .instr (.run 61) [] := by decide

/-- EmittingStepsWaitForTheSink. -/
theorem test_witness_SinkWaits :
    { ready with sinkAccepts := false }.sinkAccepts = false ∧ WellFormed (.lookup 0) ∧ (∀ f, Instr.lookup 0 ≠ .run f) :=
  ⟨rfl, rfl, fun _ h => by cases h⟩

/-- SlotOutsideTheRowStops: the first slot outside. -/
theorem test_witness_SlotOutside : fullRow.sinkAccepts = true ∧ fullRow.rowWidth.toNat ≤ fullRow.col.toNat := by decide

/-- CommittingOpcodesFrame, LookupFrame, RunFrame: each opcode answers next somewhere. -/
theorem test_witness_Frames :
    (∃ t, exec (.litRgb 1 2 3) ready = .next t) ∧ (∃ t, exec (.litRgba 1 2 3 4) ready = .next t) ∧
    (∃ t, exec (.sdelta 1 2 3) ready = .next t) ∧ (∃ t, exec (.ldelta 1 2 3) ready = .next t) ∧
    (∃ t, exec (.lookup 63) ready = .next t) ∧ (∃ t, exec (.run 61) ready = .next t) :=
  ⟨⟨_, rfl⟩, ⟨_, rfl⟩, ⟨_, rfl⟩, ⟨_, rfl⟩, ⟨_, rfl⟩, ⟨_, rfl⟩⟩

/-- StepRunsTheDecodedInstruction: the environment without moves, and with a quiet one. -/
theorem test_witness_StepRuns :
    ready.phase = .busy ∧ ready.col ≠ ready.rowWidth ∧ ready.run = 0 ∧
    decode ready.sourceBytes = .instr (.litRgb 5 6 7) [0xC1] ∧ ready.events = [] ∧
    { ready with events := [.quiet] }.events = .quiet :: [] := by decide

/-- StepSelection: each of the four cases. -/
theorem test_witness_StepSelection :
    (idle.events = [] ∧ idle.phase ≠ .busy) ∧
    (fullRow.events = [] ∧ fullRow.phase = .busy ∧ fullRow.col = fullRow.rowWidth) ∧
    (pendingRun.events = [] ∧ pendingRun.phase = .busy ∧ pendingRun.col ≠ pendingRun.rowWidth ∧ 0 < pendingRun.run.toNat) ∧
    (ready.events = [] ∧ ready.phase = .busy ∧ ready.col ≠ ready.rowWidth ∧ ready.run.toNat = 0) := by decide

/-- RowCompleteReturnsToIdle: both clauses. -/
theorem test_witness_RowComplete :
    fullRow.events = [] ∧ fullRow.phase = .busy ∧ fullRow.rowWidth = 2 ∧ fullRow.col = 2 ∧ fullRow.run = 1 ∧
    fullRow.row = 0 := by decide

theorem test_witness_ZeroWidthRow :
    let s := { idle with events := [.decodeRow] }
    s.phase = .idle ∧ s.rowWidth = 0 ∧ s.events = [.decodeRow] := by decide

/-- DrainPaysOutOnePixel: both clauses. -/
theorem test_witness_Drain :
    pendingRun.phase = .busy ∧ pendingRun.col < pendingRun.rowWidth ∧ 0 < pendingRun.run.toNat ∧ pendingRun.events = [] ∧
    pendingRun.sinkAccepts = true ∧ pendingRun.last = ⟨5, 6, 7, 255⟩ ∧ pendingRun.run = 3 ∧ pendingRun.col = 0 ∧
    pendingRun.rowWidth = 2 := by decide

/-- RunPaysOutItsLength: a run that just fills the row. -/
theorem test_witness_RunPaysOut :
    let s := rowOf 2 [0xC1]
    AtOpcode s ∧ s.sinkAccepts = true ∧ decode s.sourceBytes = .instr (.run 1) [] ∧
    s.col.toNat + ((1#8).toNat + 1) ≤ s.rowWidth.toNat :=
  ⟨⟨by decide, by decide, by decide, by decide⟩, by decide, by decide, by decide⟩

theorem test_witness_PendingRunCarries :
    let s := { fullRow with events := [.quiet, .decodeRow] }
    s.phase = .busy ∧ s.col = s.rowWidth ∧ s.events = [.quiet, .decodeRow] ∧ s.run ≠ 0 ∧ s.rowWidth ≠ 0 := by decide

/-- TruncatedOpcodeRaisesIOError: at the tag and in the payload, for each way the source ends. -/
theorem test_witness_Truncated :
    let s := rowOf 1 [0xFF, 1, 2, 3]
    AtOpcode s ∧ WellFormed (.litRgba 1 2 3 4) ∧ 4 < (encode (.litRgba 1 2 3 4)).length ∧
    s.sourceBytes = (encode (.litRgba 1 2 3 4)).take 4 ∧ s.sourceEnd = .ends ∧
    { s with sourceEnd := .fails }.sourceEnd = .fails ∧ { s with sourceEnd := .stalls }.sourceEnd = .stalls ∧
    (rowOf 1 []).sourceBytes = (encode (.lookup 0)).take 0 :=
  ⟨⟨by decide, by decide, by decide, by decide⟩, by decide, by decide, by decide, by decide, by decide, by decide, by decide⟩

theorem test_witness_FailingStep :
    let s := rowOf 1 [0xA0]
    s.phase = .busy ∧ s.events = [] ∧ step s = .next (after s) ∧ (after s).phase = .error :=
  ⟨by decide, by decide, rfl, by decide⟩

/-- ErrorIsSticky: with no move, and with DECODE_ROW. -/
theorem test_witness_ErrorIsSticky :
    failed.phase = .error ∧ (∀ rest, failed.events ≠ .hardReset :: rest) ∧ (∀ w rest, failed.events ≠ .init w :: rest) ∧
    step failed = .next failed ∧
    step { failed with events := [.decodeRow] } = .next { failed with replies := [.notAccepted] } :=
  ⟨by decide, fun _ => (List.cons_ne_nil _ _).symm, fun _ _ => (List.cons_ne_nil _ _).symm, rfl, rfl⟩

/-- InitConstructsTheDecoder, DecodeRowStartsARow, StatusReadHasNoSideEffect, HardResetLeavesUninit: the move is next, in
a phase that accepts it and in one that does not. -/
theorem test_witness_HostMoves :
    { idle with events := [.init 7] }.events = .init 7 :: [] ∧ idle.phase ≠ .busy ∧ ready.phase = .busy ∧
    { idle with events := [.decodeRow] }.events = .decodeRow :: [] ∧ idle.phase = .idle ∧ failed.phase ≠ .idle ∧
    { ready with events := [.readStatus 3] }.events = .readStatus 3 :: [] ∧ ready.phase ≠ .uninit ∧
    { ready with events := [.hardReset] }.events = .hardReset :: [] := by decide

/-- StatusRegisterMap: every phase, every code, the first number outside the map. -/
theorem test_witness_StatusRegisterMap :
    State.reset.phase = .uninit ∧ idle.phase = .idle ∧ ready.phase = .busy ∧ failed.phase = .error ∧
    ready.err.code = .none ∧ failed.err.code = .ioError ∧ (ready.raised .illegalIndex 0 64).err.code = .illegalIndex ∧
    (ready.raised .illegalRunLength 0 62).err.code = .illegalRunLength ∧
    (ready.raised .unknownTag 0 0).err.code = .unknownTag ∧ 7 ≤ 7 := by decide

/-- The codes as numbers: ERROR with IO_ERROR, `Fail`, after three bytes (10_state R24, R27, 60_exceptions R166). -/
theorem test_status_of_an_error :
    let s := (rowOf 1 []).raised .ioError 1 3
    statusRegister s 0 = 3 ∧ statusRegister s 1 = 0x309 := by decide

/-- PhaseTransitions: a step that changes the phase. -/
theorem test_witness_PhaseTransitions : step fullRow = .next (after fullRow) ∧ (after fullRow).phase ≠ fullRow.phase :=
  ⟨rfl, by decide⟩

/-- A row of one LOOKUP under a sink that accepts late: a held step, the sink's move, and quiet for ever. -/
def lateSchedule : Nat → Event
  | 1 => .sinkReady true
  | _ => .quiet

/-- The states of that run: held, held with the sink ready, the pixel sent, and the row complete for ever. -/
def lateRun : Nat → State
  | 0 => { rowOf 1 [0x00] with sinkAccepts := false }
  | 1 => { rowOf 1 [0x00] with sinkAccepts := false, latched := 1 }
  | 2 => { rowOf 1 [0x00] with latched := 1 }
  | 3 => after (rowOf 1 [0x00])
  | _ => after (after (rowOf 1 [0x00]))

theorem lateRun_isRun : IsRun lateSchedule lateRun
  | 0 => rfl
  | 1 => rfl
  | 2 => rfl
  | 3 => rfl
  | _ + 4 => rfl

/-- From the fourth state on the row is over. -/
theorem lateRun_ended (n : Nat) : (lateRun (n + 4)).phase ≠ .busy := by
  show (lateRun 4).phase ≠ .busy
  decide

/-- RowEnds, second clause: a run in a row that is weakly fair, though the sink does not accept at first. -/
theorem test_witness_RowEnds :
    IsRun lateSchedule lateRun ∧ Fair lateSchedule lateRun ∧ HostLeavesRow lateSchedule lateRun ∧
    (lateRun 0).phase = .busy ∧ PixelOffered (lateRun 0) ∧ (lateRun 0).sinkAccepts = false := by
  refine ⟨lateRun_isRun, ⟨fun n h => ?_, fun n h => ?_, fun n h => ?_⟩, fun n h => ?_, by decide, ?_, by decide⟩
  · exact absurd (h (n + 4) (by omega)).1 (lateRun_ended n)
  · exact absurd (h (n + 4) (by omega)).1 (lateRun_ended n)
  · exact absurd (h (n + 4) (by omega)) (lateRun_ended n)
  · match n with
    | 0 => exact ⟨by decide, fun _ _ => by simp [lateSchedule]⟩
    | 1 => exact ⟨by decide, fun _ _ => by simp [lateSchedule]⟩
    | n + 2 => exact ⟨by simp [lateSchedule], fun _ _ => by simp [lateSchedule]⟩
  · exact ⟨by decide, by decide, .inr ⟨.lookup 0, [], by decide, fun f => Instr.noConfusion⟩⟩

/-- NoReadAhead, OnePixelPerStepInSlotOrder, OnlyCommitsWriteTheCache: an opcode that writes the cache (its second clause has
`test_witness_canEmit`, with LIT.RGB). -/
theorem test_witness_CoreSteps :
    ready.events = [] ∧ step ready = .next (after ready) ∧ (after ready).cache ≠ ready.cache :=
  ⟨by decide, rfl, by decide⟩

theorem test_witness_AlphaChanges :
    let s := rowOf 1 [0x00]
    s.events = [] ∧ step s = .next (after s) ∧ (after s).last.a ≠ s.last.a := ⟨by decide, rfl, by decide⟩

/-- HeaderParsing: a header with other magic bytes, and one byte too few. -/
theorem test_witness_HeaderParsing :
    14 ≤ (List.replicate 14 0#8).length ∧ (List.replicate 14 0#8).take 4 ≠ [0x71, 0x6F, 0x69, 0x66] ∧
    (List.replicate 13 0#8).length < 14 := by decide

end Sys2Proof.Machine.Tests
end

section
/-! PROOFS. The two forms of a pixel (10_state R11 to R13): `pack` and `unpack` read as numbers, the channels each takes
or places, and that they undo one another. -/

namespace Sys2Proof.Machine

/-- A byte appended below a bit vector is the low digit in base 256: nothing overlaps. -/
theorem toNat_append_byte {n : Nat} (hi : BitVec n) (lo : Byte) :
    (hi ++ lo).toNat = hi.toNat * 2 ^ 8 + lo.toNat := by
  rw [BitVec.toNat_append, ← Nat.shiftLeft_add_eq_or_of_lt lo.isLt, Nat.shiftLeft_eq]

theorem pack_eq_append (px : Pixel) : pack px = px.r ++ px.g ++ px.b ++ px.a := rfl

/-- R11 as a number. -/
theorem toNat_pack (px : Pixel) :
    (pack px).toNat = px.r.toNat * 2 ^ 24 + px.g.toNat * 2 ^ 16 + px.b.toNat * 2 ^ 8 + px.a.toNat := by
  simp only [pack_eq_append, toNat_append_byte]
  omega

@[simp] theorem toNat_unpack_r (u : Word) : (unpack u).r.toNat = u.toNat / 2 ^ 24 := by
  have top : u.toNat / 2 ^ 24 < 2 ^ 8 := Nat.div_lt_of_lt_mul u.isLt
  simp only [unpack, BitVec.extractLsb'_toNat, Nat.shiftRight_eq_div_pow, Nat.mod_eq_of_lt top]

@[simp] theorem toNat_unpack_g (u : Word) : (unpack u).g.toNat = u.toNat / 2 ^ 16 % 256 := by
  simp [unpack, Nat.shiftRight_eq_div_pow]

@[simp] theorem toNat_unpack_b (u : Word) : (unpack u).b.toNat = u.toNat / 2 ^ 8 % 256 := by
  simp [unpack, Nat.shiftRight_eq_div_pow]

@[simp] theorem toNat_unpack_a (u : Word) : (unpack u).a.toNat = u.toNat % 256 := by
  simp [unpack]

/-- Two pixels are equal when their channels are equal as numbers. -/
theorem pixel_eq_of_toNat_eq {p q : Pixel} (hr : p.r.toNat = q.r.toNat) (hg : p.g.toNat = q.g.toNat)
    (hb : p.b.toNat = q.b.toNat) (ha : p.a.toNat = q.a.toNat) : p = q := by
  cases p
  cases q
  rw [Pixel.mk.injEq]
  exact ⟨BitVec.eq_of_toNat_eq hr, BitVec.eq_of_toNat_eq hg, BitVec.eq_of_toNat_eq hb, BitVec.eq_of_toNat_eq ha⟩

/-- R13: the base-256 digits of a packed pixel are its channels. -/
@[simp] theorem unpack_pack (px : Pixel) : unpack (pack px) = px := by
  have value := toNat_pack px
  have hr := px.r.isLt
  have hg := px.g.isLt
  have hb := px.b.isLt
  have ha := px.a.isLt
  apply pixel_eq_of_toNat_eq
  · rw [toNat_unpack_r]; omega
  · rw [toNat_unpack_g]; omega
  · rw [toNat_unpack_b]; omega
  · rw [toNat_unpack_a]; omega

/-- R13: a word is the sum of its base-256 digits. -/
@[simp] theorem pack_unpack (u : Word) : pack (unpack u) = u := by
  apply BitVec.eq_of_toNat_eq
  rw [toNat_pack, toNat_unpack_r, toNat_unpack_g, toNat_unpack_b, toNat_unpack_a]
  omega

/-- Settles O8: the numeric form is `toNat_pack`; the concatenation is the definition. -/
theorem packPlacesTheChannels : Obligations.PackPlacesTheChannels :=
  ⟨fun r g b a => ⟨toNat_pack ⟨r, g, b, a⟩, pack_eq_append ⟨r, g, b, a⟩⟩, by decide, by decide⟩

/-- Settles O9: one lemma per channel. -/
theorem unpackTakesTheChannels : Obligations.UnpackTakesTheChannels :=
  ⟨fun u => ⟨toNat_unpack_r u, toNat_unpack_g u, toNat_unpack_b u, toNat_unpack_a u⟩, by decide, by decide⟩

/-- Settles O10: `unpack_pack` and `pack_unpack`. -/
theorem packAndUnpackAreInverse : Obligations.PackAndUnpackAreInverse :=
  ⟨fun r g b a => unpack_pack ⟨r, g, b, a⟩, pack_unpack⟩

end Sys2Proof.Machine
end

section
/-! PROOFS. The tag space (30_encoding R61): the 2-bit prefix of a tag read as a number, and the opcode that each prefix
selects once the two exact bytes are excluded. -/

namespace Sys2Proof.Machine

/-- The prefix `t[7:6]` is the quarter of the byte range that the tag lies in. -/
theorem toNat_tagPrefix (t : Byte) : (t.extractLsb' 6 2).toNat = t.toNat / 64 := by
  have inTwoBits : t.toNat / 64 < 4 := Nat.div_lt_of_lt_mul t.isLt
  simp only [BitVec.extractLsb'_toNat, Nat.shiftRight_eq_div_pow, Nat.reducePow, Nat.mod_eq_of_lt inTwoBits]

theorem tagPrefix_eq {t : Byte} {p : BitVec 2} (h : t.toNat / 64 = p.toNat) : t.extractLsb' 6 2 = p :=
  BitVec.eq_of_toNat_eq ((toNat_tagPrefix t).trans h)

/-- Settles O4: the exact bytes are the definition's first two tests; a tag that fails both is decided by its prefix, one
for each quarter of the byte range. -/
theorem tagSelectsOpcode : Obligations.TagSelectsOpcode := by
  refine ⟨rfl, rfl, fun t (hFE : t ≠ 0xFE#8) (hFF : t ≠ 0xFF#8) => ?_⟩
  simp only [classify, if_neg hFE, if_neg hFF]
  refine ⟨fun h => ?lookup, fun h => ?sdelta, fun h => ?ldelta, fun h => ?run⟩
  case lookup => rw [tagPrefix_eq (p := 0b00#2) h]; rfl
  case sdelta => rw [tagPrefix_eq (p := 0b01#2) h]; rfl
  case ldelta => rw [tagPrefix_eq (p := 0b10#2) h]; rfl
  case run => rw [tagPrefix_eq (p := 0b11#2) h]; rfl

end Sys2Proof.Machine
end

section
/-! PROOFS. The hash (40_sequencer R88), Emit (R90) and Commit (R91): the pixel they write reads back from the image buffer,
and what they leave of the cache, the output and the rest of the state. -/

namespace Sys2Proof.Machine

/-- R88 as a number: six bits hold the residue. -/
theorem toNat_pixelHash (px : Pixel) :
    (pixelHash px).toNat = (3 * px.r.toNat + 5 * px.g.toNat + 7 * px.b.toNat + 11 * px.a.toNat) % 64 := by
  rw [pixelHash, BitVec.toNat_ofNat, Nat.mod_mod]

/-- Settles O11: the formula is `toNat_pixelHash`; the worked values are computed. -/
theorem hashFormula : Obligations.HashFormula :=
  ⟨toNat_pixelHash, by decide⟩

/-- A pixel written reads back: each byte reads back from its own write, and the writes after it go elsewhere. -/
theorem Memory.readsPixel_writePixel (m : Memory) (a : Nat) (px : Pixel) (hm : m.wf) :
    ReadsPixel (m.writePixel a px) a px := by
  have wfR := Memory.write_wf m a px.r hm
  have wfG := Memory.write_wf _ (a + 1) px.g wfR
  have wfB := Memory.write_wf _ (a + 2) px.b wfG
  constructor <;> rw [Memory.writePixel]
  case r =>
    rw [Memory.read_write_other _ _ (by omega), Memory.read_write_other _ _ (by omega),
      Memory.read_write_other _ _ (by omega), Memory.read_write_same _ _ _ hm]
  case g =>
    rw [Memory.read_write_other _ _ (by omega), Memory.read_write_other _ _ (by omega),
      Memory.read_write_same _ _ _ wfR]
  case b => rw [Memory.read_write_other _ _ (by omega), Memory.read_write_same _ _ _ wfG]
  case a => rw [Memory.read_write_same _ _ _ wfB]

theorem readsPixel_pushPixel (px : Pixel) {s : State} (hm : s.image.wf) :
    ReadsPixel (s.pushPixel px).image (outAddr s) px :=
  Memory.readsPixel_writePixel s.image (outAddr s) px hm

theorem emits_pushPixel (px : Pixel) (s : State) : Emits px s (s.pushPixel px) where
  sent := rfl
  col := rfl
  elsewhere := Memory.read_writePixel_other s.image (outAddr s) px

/-- Settles O13: where the row has a slot, Emit is `pushPixel`; the offset in the statement is `outAddr`. -/
theorem emitWritesOnePixel : Obligations.EmitWritesOnePixel := fun px s slot =>
  ⟨(s.pushPixel px).image, emit_of_slot slot,
    fun hm => ⟨readsPixel_pushPixel px hm, Memory.writePixel_wf s.image (outAddr s) px hm⟩,
    (emits_pushPixel px s).elsewhere⟩

theorem commits_committed (px : Pixel) (s : State) : Commits px s (committed px s) where
  entry := by simp [committed]
  otherEntries i other := by simp [committed, cacheRead_cacheWrite_other s _ other]
  last := rfl

/-- The cache write and LAST move neither the output address nor the image buffer. -/
theorem emits_committed (px : Pixel) (s : State) : Emits px s (committed px s) where
  sent := rfl
  col := rfl
  elsewhere := (emits_pushPixel px ((s.cacheWrite (pixelHash px) (pack px)).setLast px)).elsewhere

theorem readsPixel_committed (px : Pixel) {s : State} (hm : s.image.wf) :
    ReadsPixel (committed px s).image (outAddr s) px :=
  readsPixel_pushPixel px (s := (s.cacheWrite (pixelHash px) (pack px)).setLast px) hm

theorem opcodeFrame_committed (px : Pixel) (s : State) : OpcodeFrame s (committed px s) := by
  constructor <;> rfl

/-- Settles O14: where the row has a slot, Commit leaves `committed`. -/
theorem commitUpdatesCacheLastAndOutput : Obligations.CommitUpdatesCacheLastAndOutput := fun px s slot =>
  ⟨committed px s, commit_of_slot slot, commits_committed px s, emits_committed px s, readsPixel_committed px,
    rfl, rfl, rfl, rfl, opcodeFrame_committed px s⟩

end Sys2Proof.Machine
end

section
/-! PROOFS. Step selection (40_sequencer R80): the four branches of the core's step, the step of a quiet environment, and
rows that complete (R81, R82). -/

namespace Sys2Proof.Machine

theorem coreStep_of_not_busy {s : State} (h : s.phase ≠ .busy) : coreStep s = .next s := if_neg h

theorem coreStep_of_full {s : State} (busy : s.phase = .busy) (full : s.col = s.rowWidth) :
    coreStep s = .next s.rowCompleted := by
  rw [coreStep, if_pos busy, if_pos full, rowComplete_eq]

theorem coreStep_of_pending {s : State} (busy : s.phase = .busy) (notFull : s.col ≠ s.rowWidth) (pending : 0 < s.run) :
    coreStep s = drain s := by
  rw [coreStep, if_pos busy, if_neg notFull, if_pos pending]

theorem coreStep_of_noRun {s : State} (busy : s.phase = .busy) (notFull : s.col ≠ s.rowWidth) (noRun : s.run = 0) :
    coreStep s = opcodeStep s := by
  have notPending : ¬ 0 < s.run := by rw [noRun]; decide
  rw [coreStep, if_pos busy, if_neg notFull, if_neg notPending]

/-- With no move of the environment left, a step is the core's (log entry 1). -/
theorem step_quiet {s : State} (quiet : s.events = []) : step s = coreStep s := machineStep_quiet quiet

theorem step_of_full {s : State} (quiet : s.events = []) (busy : s.phase = .busy) (full : s.col = s.rowWidth) :
    step s = .next s.rowCompleted :=
  (step_quiet quiet).trans (coreStep_of_full busy full)

/-- DECODE_ROW in IDLE (45_host_commands R152, R153). -/
theorem step_decodeRow_of_idle {s : State} {later : List Event} (move : s.events = .decodeRow :: later)
    (idle : s.phase = .idle) : step s = .next (({ s with events := later }).rowStarted.reply .accepted) :=
  (machineStep_event move).trans (hostDecodeRow_accepted (s := { s with events := later }) idle)

/-- Settles O31: one branch of `coreStep` for each case. -/
theorem stepSelection : Obligations.StepSelection := by
  intro s quiet
  rw [step_quiet quiet]
  refine ⟨coreStep_of_not_busy, coreStep_of_full, fun busy notFull pending => ?drain, fun busy notFull noRun => ?opcode⟩
  case drain => exact coreStep_of_pending busy notFull (BitVec.lt_def.mpr pending)
  case opcode => exact coreStep_of_noRun busy notFull (BitVec.eq_of_toNat_eq noRun)

/-- Settles O32: the step leaves `rowCompleted`; the example is its instance with ROW 0. -/
theorem rowCompleteReturnsToIdle : Obligations.RowCompleteReturnsToIdle := by
  refine ⟨fun s quiet busy full => ⟨s.rowsDone + 1, step_of_full quiet busy full⟩, ?ruleExample⟩
  case ruleExample =>
    intro s quiet busy width col run row
    refine ⟨s.rowCompleted, step_of_full quiet busy (col.trans width.symm), rfl, rfl, ?_, run⟩
    rw [State.rowCompleted_row, row]
    decide

/-- Settles O33: DECODE_ROW puts COL to 0, which is ROW_WIDTH, so the next step is ROW-COMPLETE; neither touches the stream,
the output, RUN, LAST or CACHE. -/
theorem zeroWidthRowCompletesAtOnce : Obligations.ZeroWidthRowCompletesAtOnce := by
  intro s idle width move
  refine ⟨(({ s with events := [] } : State).rowStarted.reply .accepted).rowCompleted, ?twoSteps,
    rfl, rfl, rfl, rfl, rfl, rfl, rfl, rfl, rfl⟩
  case twoSteps =>
    rw [runSteps, step_decodeRow_of_idle move idle, andThen_next,
      runSteps, step_of_full rfl rfl width.symm, andThen_next, runSteps]

end Sys2Proof.Machine
end

section
/-! PROOFS. DRAIN (44_run R138): the state it leaves, what that state keeps, and the step that takes it there. -/

namespace Sys2Proof.Machine

/-- The state after a DRAIN that the sink accepts and the row has a slot for. -/
def State.drained (s : State) : State := (s.setRun (s.run - 1)).pushPixel s.last

/-- A busy core with a run pending, a slot in the row and a sink that accepts takes the DRAIN step. -/
theorem step_of_pending {s : State} (quiet : s.events = []) (busy : s.phase = .busy) (slot : s.col < s.rowWidth)
    (pending : 0 < s.run) (accepts : s.sinkAccepts = true) : step s = .next s.drained :=
  calc step s
    _ = coreStep s := step_quiet quiet
    _ = drain s := coreStep_of_pending busy (BitVec.ne_of_lt slot) pending
    _ = .next s.drained := drain_of_ready accepts slot

/-- The counter is not 0, so it does not wrap. -/
theorem toNat_run_drained {s : State} (pending : 0 < s.run.toNat) : s.drained.run.toNat = s.run.toNat - 1 :=
  BitVec.toNat_sub_of_le (BitVec.le_def.mpr pending)

/-- The counter moves neither the output address nor the image buffer. -/
theorem emits_drained (s : State) : Emits s.last s s.drained where
  sent := rfl
  col := rfl
  elsewhere := (emits_pushPixel s.last (s.setRun (s.run - 1))).elsewhere

theorem readsPixel_drained {s : State} (hm : s.image.wf) : ReadsPixel s.drained.image (outAddr s) s.last :=
  readsPixel_pushPixel s.last (s := s.setRun (s.run - 1)) hm

theorem opcodeFrame_drained (s : State) : OpcodeFrame s s.drained := by
  constructor <;> rfl

/-- Settles O34: the step leaves `drained`; the example is that step with COL 0 and a run of 3. -/
theorem drainPaysOutOnePixel : Obligations.DrainPaysOutOnePixel := by
  refine ⟨fun s busy slot pending quiet accepts => ?anyRun, fun s busy quiet accepts last run col width => ?ruleExample⟩
  case anyRun =>
    exact ⟨s.drained, step_of_pending quiet busy slot (BitVec.lt_def.mpr pending) accepts, emits_drained s,
      readsPixel_drained, toNat_run_drained pending, rfl, rfl, rfl, rfl, rfl, opcodeFrame_drained s⟩
  case ruleExample =>
    have slot : s.col < s.rowWidth := by rw [col, width]; decide
    have pending : 0 < s.run := by rw [run]; decide
    refine ⟨s.drained, step_of_pending quiet busy slot pending accepts, ?_, ?_, ?_⟩
    · rw [(emits_drained s).sent, col, last]
    · rw [State.drained, State.pushPixel_run, State.setRun_run, run]; decide
    · rw [(emits_drained s).col, col]; decide

end Sys2Proof.Machine
end

section
/-! PROOFS. The host commands (45_host_commands R150 to R153): what each does in the phases that accept it and in those that
do not, and the core's own steps phase by phase. -/

namespace Sys2Proof.Machine

/-- DECODE_ROW outside IDLE (45_host_commands R153, R154). -/
theorem step_decodeRow_of_not_idle {s : State} {later : List Event} (move : s.events = .decodeRow :: later)
    (notIdle : s.phase ≠ .idle) : step s = .next (({ s with events := later } : State).reply .notAccepted) :=
  (machineStep_event move).trans (hostDecodeRow_refused (s := { s with events := later }) notIdle)

/-- Settles O41: in IDLE the step leaves `rowStarted`, elsewhere the state as it was, each with the command taken off the
list and a reply. -/
theorem decodeRowStartsARow : Obligations.DecodeRowStartsARow := fun s _ move =>
  ⟨fun idle => ⟨s.replies ++ [Reply.accepted], step_decodeRow_of_idle move idle⟩,
    fun notIdle => ⟨s.replies ++ [Reply.notAccepted], step_decodeRow_of_not_idle move notIdle⟩⟩

/-- Every entry reads 0 after an accepted INIT: the reply leaves the cache alone. -/
theorem cacheRead_initialised_reply (w : Word) (r : Reply) (s : State) (i : BitVec 6) :
    cacheRead ((s.initialised w).reply r) i = 0 :=
  (cacheRead_reply r (s.initialised w) i).trans (cacheRead_initialised w s i)

/-- The last column of R153's table: a busy core takes ROW-COMPLETE, DRAIN or OPCODE. -/
theorem coreStep_of_busy {s : State} (busy : s.phase = .busy) :
    coreStep s = rowComplete s ∨ coreStep s = drain s ∨ coreStep s = opcodeStep s := by
  obtain ⟨notBusy, -⟩ | ⟨-, -, full⟩ | ⟨-, -, -, pending⟩ | ⟨-, -, -, noRun⟩ := coreStep_cases s
  · exact absurd busy notBusy
  · exact .inl (full.trans (rowComplete_eq s).symm)
  · exact .inr (.inl pending)
  · exact .inr (.inr noRun)

/-- Settles O42: the table cell by cell, each from the lemma on its command in that phase. -/
theorem acceptanceTable : Obligations.AcceptanceTable := by
  intro s
  refine ⟨fun notBusy w => ?initAccepted, fun busy w => ⟨_, hostInit_refused busy⟩,
    fun idle => ⟨_, hostDecodeRow_accepted idle, rfl⟩, fun notIdle => ⟨_, hostDecodeRow_refused notIdle⟩,
    coreStep_of_not_busy, coreStep_of_busy, ⟨_, hardReset_eq s, rfl⟩⟩
  case initAccepted =>
    exact ⟨(s.initialised w).reply .accepted, hostInit_accepted notBusy, rfl, rfl,
      cacheRead_initialised_reply w .accepted s, rfl, rfl, rfl, rfl, rfl⟩

end Sys2Proof.Machine
end

section
/-! PROOFS. Errors (60_exceptions R175): the one move of the core that ends in ERROR, and how many bytes a truncated opcode
has. -/

namespace Sys2Proof.Machine

/-- A truncated opcode is the whole of what the source has left. -/
theorem length_of_short {bytes : List Byte} {k : Nat} (h : decode bytes = .short k) : k = bytes.length := by
  cases bytes with
  | nil => cases h; rfl
  | cons t p =>
    have whole : k = 1 + p.length := by
      simp only [decode] at h
      split at h
      case h_1 => cases h
      case h_2 | h_3 | h_6 => split at h <;> cases h; rfl
      case h_4 | h_5 | h_7 => cases h
    rw [whole, List.length_cons, Nat.add_comm]

/-- The longest opcode has five bytes (30_encoding R60). -/
theorem opcodeBytes_le_five (bytes : List Byte) : opcodeBytes bytes ≤ 5 := by
  cases bytes with
  | nil => exact Nat.zero_le 5
  | cons t p =>
    rw [opcodeBytes]
    cases classify t with
    | none => exact (by decide : 1 ≤ 5)
    | some o => cases o <;> simp only [payloadCount] <;> omega

/-- From BUSY only a dry source leads to ERROR: every other move of the core stays in BUSY or completes the row. -/
theorem CoreMoves.ioError_of_error {s t : State} (move : CoreMoves s t) (busy : s.phase = .busy) (failed : t.phase = .error) :
    ∃ k sub, decode s.sourceBytes = .short k ∧ t = (s.advance k).raised .ioError sub (BitVec.ofNat 8 k) := by
  have stays {u : State} (same : u.phase = s.phase) : u.phase ≠ .error := by rw [same, busy]; decide
  cases move with
  | quiescent notBusy => exact absurd busy notBusy
  | held => exact absurd failed (stays rfl)
  | drainHeld => exact absurd failed (stays rfl)
  | rowComplete => exact absurd failed (by rw [State.rowCompleted_phase]; decide)
  | drain => exact absurd failed (stays rfl)
  | commit => exact absurd failed (stays rfl)
  | lookup => exact absurd failed (stays rfl)
  | run => exact absurd failed (stays rfl)
  | ioError k sub _ _ _ short _ => exact ⟨k, sub, short, rfl⟩

/-- Settles O38: error entry is the definition of `raise`; a step that fails is the IOError of a truncated opcode, whose
bytes are all the source had. -/
theorem failingStepAbandonsItsOtherWrites : Obligations.FailingStepAbandonsItsOtherWrites := by
  refine ⟨raise_eq, fun s t busy quiet stepped failed => ?_⟩
  have move : CoreMoves s t := coreStep_moves ((step_quiet quiet).symm.trans stepped)
  obtain ⟨k, sub, short, rfl⟩ := move.ioError_of_error busy failed
  have fitsByte : k < 2 ^ 8 := by
    have := opcodeBytes_le_five s.sourceBytes
    rw [opcodeBytes_of_short short] at this
    omega
  have allBytes : k = s.sourceBytes.length := length_of_short short
  refine ⟨rfl, ?value, ?wholeState⟩
  case value =>
    calc (BitVec.ofNat 8 k).toNat
      _ = k := BitVec.toNat_ofNat k 8 |>.trans (Nat.mod_eq_of_lt fitsByte)
      _ = s.sourceBytes.length := allBytes
  case wholeState =>
    rw [State.raised, State.advance, allBytes, List.drop_length]

end Sys2Proof.Machine
end

section
/-! PROOFS. The encoding (30_encoding): decode and encode undo one another, the decoder is total, and what a truncated
encoding decodes to. -/

namespace Sys2Proof.Machine

open Sys2Proof.Laws

/-! ### The fields of a tag byte, read back and put together -/

/-- A six-bit field under any two tag bits reads back. -/
theorem tagField_append (p : BitVec 2) (f : BitVec 6) : tagField (p ++ f) = f.setWidth 8 := by
  revert p f; decide

/-- A byte below 64 fits a six-bit field. -/
theorem setWidth_setWidth_of_lt {x : Byte} (h : x.toNat < 64) : (x.setWidth 6).setWidth 8 = x := by
  apply BitVec.eq_of_toNat_eq
  rw [BitVec.toNat_setWidth, BitVec.toNat_setWidth, Nat.mod_eq_of_lt h, Nat.mod_eq_of_lt x.isLt]

theorem decode_lookup (f : BitVec 6) (rest : List Byte) :
    decode ((0b00#2 ++ f) :: rest) = .instr (.lookup (f.setWidth 8)) rest := by
  simp only [decode, TagGivesLength.classify_lookup, tagField_append]

theorem decode_sdelta (dr dg db : BitVec 2) (rest : List Byte) :
    decode ((0b01#2 ++ dr ++ dg ++ db) :: rest) = .instr (.sdelta dr dg db) rest := by
  have fields : ∀ x y z : BitVec 2, (0b01#2 ++ x ++ y ++ z).extractLsb' 4 2 = x ∧
      (0b01#2 ++ x ++ y ++ z).extractLsb' 2 2 = y ∧ (0b01#2 ++ x ++ y ++ z).extractLsb' 0 2 = z := by decide
  obtain ⟨hr, hg, hb⟩ := fields dr dg db
  simp only [decode, TagGivesLength.classify_sdelta, hr, hg, hb]

theorem decode_ldelta (vg : BitVec 6) (drg dbg : BitVec 4) (rest : List Byte) :
    decode ((0b10#2 ++ vg) :: (drg ++ dbg) :: rest) = .instr (.ldelta vg drg dbg) rest := by
  have green : ∀ f : BitVec 6, (0b10#2 ++ f).extractLsb' 0 6 = f := by decide
  have chroma : ∀ x y : BitVec 4, (x ++ y).extractLsb' 4 4 = x ∧ (x ++ y).extractLsb' 0 4 = y := by decide
  simp only [decode, TagGivesLength.classify_ldelta, green, chroma drg dbg]

theorem decode_run {f : BitVec 6} (h : f.toNat < 62) (rest : List Byte) :
    decode ((0b11#2 ++ f) :: rest) = .instr (.run (f.setWidth 8)) rest := by
  simp only [decode, TagGivesLength.classify_run f h, tagField_append]

/-- Settles O1: the tag of each encoding selects its opcode and every field reads back. -/
theorem decodeOfEncodeIsTheInstruction : Obligations.DecodeOfEncodeIsTheInstruction := by
  intro i wf rest
  cases i with
  | litRgb r g b => rfl
  | litRgba r g b a => rfl
  | lookup index =>
    have legal : index.toNat < 64 := of_decide_eq_true wf
    rw [encode, List.singleton_append, decode_lookup, setWidth_setWidth_of_lt legal]
  | sdelta dr dg db => exact decode_sdelta dr dg db rest
  | ldelta vg drg dbg => exact decode_ldelta vg drg dbg rest
  | run field =>
    have legal : field.toNat < 62 := of_decide_eq_true wf
    have narrow : (field.setWidth 6).toNat < 62 := by rw [BitVec.toNat_setWidth]; omega
    rw [encode, List.singleton_append, decode_run narrow, setWidth_setWidth_of_lt (by omega)]

/-! ### What the decoder takes -/

/-- The tag that selects each opcode is put together from its fields (30_encoding R61, R64). -/
theorem tag_of_classify (t : Byte) :
    (classify t = some .litRgb → t = 0xFE#8) ∧ (classify t = some .litRgba → t = 0xFF#8) ∧
    (classify t = some .lookup → t = 0b00#2 ++ (tagField t).setWidth 6) ∧
    (classify t = some .sdelta → t = 0b01#2 ++ t.extractLsb' 4 2 ++ t.extractLsb' 2 2 ++ t.extractLsb' 0 2) ∧
    (classify t = some .ldelta → t = 0b10#2 ++ t.extractLsb' 0 6) ∧
    (classify t = some .run → t = 0b11#2 ++ (tagField t).setWidth 6) := by
  revert t; decide

/-- A byte is its two nibbles. -/
theorem byte_eq_nibbles (q : Byte) : q = q.extractLsb' 4 4 ++ q.extractLsb' 0 4 := by
  revert q; decide

/-- Settles O2: well-formedness is `decode_instr`; the tag is `tag_of_classify`, and the payload is taken as it stands. -/
theorem decodedBytesAreTheEncoding : Obligations.DecodedBytesAreTheEncoding := by
  intro bytes i rest h
  refine ⟨(decode_instr h).1, ?_⟩
  cases bytes with
  | nil => cases h
  | cons t p =>
    obtain ⟨litRgb, litRgba, lookup, sdelta, ldelta, run⟩ := tag_of_classify t
    simp only [decode] at h
    split at h
    case h_1 => cases h
    case h_2 tag => split at h <;> cases h; rw [litRgb tag]; rfl
    case h_3 tag => split at h <;> cases h; rw [litRgba tag]; rfl
    case h_4 tag => cases h; exact congrArg (· :: rest) (lookup tag)
    case h_5 tag => cases h; exact congrArg (· :: rest) (sdelta tag)
    case h_6 tag =>
      split at h <;> cases h
      rename_i q
      exact congrArg₂ (fun x y => x :: y :: rest) (ldelta tag) (byte_eq_nibbles q)
    case h_7 tag => cases h; exact congrArg (· :: rest) (run tag)

/-- Every byte string starts with a whole opcode or is a truncated one (30_encoding R63). -/
theorem decode_cases (bytes : List Byte) :
    (∃ i rest, decode bytes = .instr i rest) ∨ ∃ k, decode bytes = .short k := by
  cases h : decode bytes with
  | instr i rest => exact .inl ⟨i, rest, rfl⟩
  | short k => exact .inr ⟨k, rfl⟩
  | unknownTag u => exact absurd h (decode_ne_unknownTag bytes u)

/-- Five bytes hold the longest opcode, a tag and four bytes of payload (30_encoding R60). -/
theorem decode_of_five {bytes : List Byte} (h : 5 ≤ bytes.length) : ∃ i rest, decode bytes = .instr i rest := by
  match bytes, h with
  | t :: a :: b :: c :: d :: rest, _ =>
    cases hc : classify t with
    | none => exact absurd hc (classify_ne_none t)
    | some o => cases o <;> simp only [decode, hc] <;> exact ⟨_, _, rfl⟩

/-- A truncated opcode has at most four bytes: five always hold one. -/
theorem short_le_four {bytes : List Byte} {k : Nat} (h : decode bytes = .short k) : k ≤ 4 := by
  rw [length_of_short h]
  by_contra tooMany
  obtain ⟨i, rest, whole⟩ := decode_of_five (bytes := bytes) (by omega)
  cases h.symm.trans whole

/-- Settles O3: every tag is known, and a truncated opcode is all of a list of at most four bytes. -/
theorem decoderIsTotal : Obligations.DecoderIsTotal :=
  ⟨decode_ne_unknownTag, fun _ => decode_of_five, fun _ _ h => ⟨length_of_short h, short_le_four h⟩⟩

/-- A proper beginning of an encoding is a truncated opcode: were it a whole one, it would be the same instruction, which
needs all of its encoding. -/
theorem decode_take_encode {i : Instr} {k : Nat} (wf : WellFormed i) (h : k < (encode i).length) :
    decode ((encode i).take k) = .short k := by
  obtain ⟨j, rest, whole⟩ | ⟨n, short⟩ := decode_cases ((encode i).take k)
  · have longer := decode_append whole ((encode i).drop k)
    rw [List.take_append_drop, ← List.append_nil (encode i), decodeOfEncodeIsTheInstruction i wf [],
      Decoded.instr.injEq] at longer
    have fits := (decode_instr whole).2.1
    rw [← longer.1, List.length_take] at fits
    omega
  · rw [short, length_of_short short, List.length_take, Nat.min_eq_left h.le]

/-! ### The examples and the run lengths -/

/-- Settles O5: the six words of Decode.lean. -/
theorem specExamplesDecode : Obligations.SpecExamplesDecode :=
  ⟨decode_litRgb_word, decode_litRgba_word, decode_lookup_word, decode_sdelta_word, decode_ldelta_word,
    decode_run_word⟩

/-- Bits appended below a bit vector are its low digit. -/
theorem toNat_append_eq_add {n m : Nat} (hi : BitVec n) (lo : BitVec m) :
    (hi ++ lo).toNat = hi.toNat * 2 ^ m + lo.toNat := by
  rw [BitVec.toNat_append, ← Nat.shiftLeft_add_eq_or_of_lt lo.isLt, Nat.shiftLeft_eq]

/-- The tag byte of a run field (44_run). -/
theorem runTag_eq {n : Nat} (h : n < 64) : 0b11#2 ++ BitVec.ofNat 6 n = BitVec.ofNat 8 (0xC0 + n) := by
  apply BitVec.eq_of_toNat_eq
  rw [toNat_append_eq_add, BitVec.toNat_ofNat, BitVec.toNat_ofNat, BitVec.toNat_ofNat]
  omega

theorem toNat_runLength {f : Byte} (h : f.toNat < 62) : (runLength f).toNat = f.toNat + 1 := by
  rw [runLength, BitVec.toNat_ofNat, Nat.mod_eq_of_lt (by omega)]

theorem decode_run_legal {bytes rest : List Byte} {f : Byte} (h : decode bytes = .instr (.run f) rest) : f.toNat < 62 :=
  of_decide_eq_true (decode_instr h).1

theorem decode_lookup_legal {bytes rest : List Byte} {index : Byte} (h : decode bytes = .instr (.lookup index) rest) :
    index.toNat < 64 :=
  of_decide_eq_true (decode_instr h).1

/-- Settles O6: the tag of a length is the encoding of its field, and a decoded field is below 62. -/
theorem runLengthsAreOneToSixtyTwo : Obligations.RunLengthsAreOneToSixtyTwo := by
  refine ⟨fun len low high => ?tag, fun bytes f rest h => ?length⟩
  case tag =>
    have field : (BitVec.ofNat 6 (len - 1)).toNat = len - 1 := by rw [BitVec.toNat_ofNat, Nat.mod_eq_of_lt (by omega)]
    have widened : (BitVec.ofNat 6 (len - 1)).setWidth 8 = BitVec.ofNat 8 (len - 1) := by
      apply BitVec.eq_of_toNat_eq
      rw [BitVec.toNat_setWidth, field, BitVec.toNat_ofNat]
    rw [← runTag_eq (by omega), decode_run (by omega), widened]
  case length =>
    have legal := decode_run_legal h
    have value := toNat_runLength legal
    exact ⟨by omega, by omega, value⟩

end Sys2Proof.Machine
end

section
/-! PROOFS. Channel arithmetic (43_delta R126): addition modulo 256 as a number, from which the laws follow. -/

namespace Sys2Proof.Machine

theorem toNat_add8 (x : Byte) (d : Int) : ((add8 x d).toNat : Int) = ((x.toNat : Int) + d) % 256 := by
  rw [add8, BitVec.toNat_ofInt, Int.toNat_of_nonneg (Int.emod_nonneg _ (by decide))]
  rfl

/-- Bytes are equal when they are equal as integers. -/
theorem byte_eq_of_toNat_eq {x y : Byte} (h : (x.toNat : Int) = (y.toNat : Int)) : x = y :=
  BitVec.eq_of_toNat_eq (Int.ofNat_inj.mp h)

theorem add8_add8 (x : Byte) (d e : Int) : add8 (add8 x d) e = add8 x (d + e) := by
  apply byte_eq_of_toNat_eq
  rw [toNat_add8, toNat_add8, toNat_add8, Int.emod_add_emod, Int.add_assoc]

theorem add8_add_256 (x : Byte) (d : Int) : add8 x (d + 256) = add8 x d := by
  apply byte_eq_of_toNat_eq
  rw [toNat_add8, toNat_add8, ← Int.add_assoc, Int.add_emod_right]

/-- Settles O12: the laws hold of the residues; the corner values are computed. -/
theorem channelArithmeticWraps : Obligations.ChannelArithmeticWraps :=
  ⟨toNat_add8, add8_add8, add8_add_256, by decide⟩

end Sys2Proof.Machine
end

section
/-! PROOFS. The opcodes (41_literal to 44_run): each meaning as a fetch followed by Commit or Emit, what the state it leaves
has and keeps, and its defensive checks. -/

namespace Sys2Proof.Machine

/-! ### The shape of the meanings -/

/-- The pixel a committing opcode derives; LOOKUP and RUN commit none, and LAST stands in their place. -/
def committedPixel (last : Pixel) : Instr → Pixel
  | .litRgb r g b => literalPixel last r g b
  | .litRgba r g b a => ⟨r, g, b, a⟩
  | .lookup _ => last
  | .sdelta dr dg db => smallDeltaPixel last dr dg db
  | .ldelta vg drg dbg => lumaDeltaPixel last vg drg dbg
  | .run _ => last

/-- A committing opcode is its fetch, then Commit of its pixel. -/
theorem exec_of_committing {i : Instr} (kind : Committing i) (s : State) :
    exec i s = whenFetched (encode i).length s (commit (committedPixel s.last i)) := by
  cases i with
  | litRgb r g b => rfl
  | litRgba r g b a => rfl
  | lookup index => cases kind
  | sdelta dr dg db => rfl
  | ldelta vg drg dbg => rfl
  | run field => cases kind

theorem committing_of_not_lookup_run {i : Instr} (notLookup : ∀ index, i ≠ .lookup index) (notRun : ∀ f, i ≠ .run f) :
    Committing i := by
  cases i with
  | lookup index => exact absurd rfl (notLookup index)
  | run field => exact absurd rfl (notRun field)
  | litRgb | litRgba | sdelta | ldelta => trivial

/-- LOOKUP with a legal index is its fetch, then Emit of the entry's pixel with LAST set to it. -/
theorem exec_lookup_of_legal {index : Byte} (legal : index.toNat < 64) (s : State) :
    exec (.lookup index) s = whenFetched 1 s fun t =>
      emit (unpack (cacheRead s (lookupEntry index))) (t.setLast (unpack (cacheRead s (lookupEntry index)))) :=
  if_neg (Nat.not_le.mpr legal)

/-- Every well-formed opcode but RUN is its fetch, then Emit in a state with the same slot. -/
theorem exec_of_emitting {i : Instr} (wf : WellFormed i) (notRun : ∀ f, i ≠ .run f) (s : State) :
    ∃ (px : Pixel) (derive : State → State),
      exec i s = whenFetched (encode i).length s (fun t => emit px (derive t)) ∧
      ∀ t, (derive t).col = t.col ∧ (derive t).rowWidth = t.rowWidth := by
  by_cases looksUp : ∃ index, i = .lookup index
  · obtain ⟨index, rfl⟩ := looksUp
    exact ⟨_, fun t => t.setLast _, exec_lookup_of_legal (of_decide_eq_true wf) s, fun t => ⟨rfl, rfl⟩⟩
  · have kind := committing_of_not_lookup_run (fun index e => looksUp ⟨index, e⟩) notRun
    exact ⟨_, fun t => (t.cacheWrite _ _).setLast _, exec_of_committing kind s, fun t => ⟨rfl, rfl⟩⟩

/-- Emit stops where the slot does not exist (log entry 14). -/
theorem emit_of_no_slot {px : Pixel} {s : State} (h : ¬ s.col < s.rowWidth) : emit px s = .fault .slotOutsideRow :=
  if_neg h

/-! ### The states they leave -/

/-- The state after LOOKUP. -/
def State.lookedUp (index : Byte) (s : State) : State :=
  ((s.advance 1).setLast (unpack (cacheRead s (lookupEntry index)))).pushPixel (unpack (cacheRead s (lookupEntry index)))

theorem lookupEntry_eq (index : Byte) : lookupEntry index = BitVec.ofNat 6 index.toNat := rfl

/-- A committed opcode of `n` bytes: its pixel in the cache, LAST and the output, and its bytes consumed. -/
theorem committed_advance (px : Pixel) (n : Nat) (s : State) :
    Commits px s (committed px (s.advance n)) ∧ Emits px s (committed px (s.advance n)) ∧
    (s.image.wf → ReadsPixel (committed px (s.advance n)).image (outAddr s) px) ∧
    Consumes n s (committed px (s.advance n)) := by
  obtain ⟨entry, otherEntries, last⟩ := commits_committed px (s.advance n)
  obtain ⟨sent, col, elsewhere⟩ := emits_committed px (s.advance n)
  exact ⟨⟨entry, otherEntries, last⟩, ⟨sent, col, elsewhere⟩, readsPixel_committed px (s := s.advance n), rfl, rfl, rfl⟩

theorem opcodeFrame_committed_advance (px : Pixel) (n : Nat) (s : State) :
    OpcodeFrame s (committed px (s.advance n)) := by
  constructor <;> rfl

theorem emits_lookedUp (index : Byte) (s : State) :
    Emits (unpack (cacheRead s (lookupEntry index))) s (s.lookedUp index) where
  sent := rfl
  col := rfl
  elsewhere := (emits_pushPixel _ ((s.advance 1).setLast _)).elsewhere

theorem readsPixel_lookedUp (index : Byte) {s : State} (hm : s.image.wf) :
    ReadsPixel (s.lookedUp index).image (outAddr s) (unpack (cacheRead s (lookupEntry index))) :=
  readsPixel_pushPixel _ (s := (s.advance 1).setLast _) hm

theorem opcodeFrame_lookedUp (index : Byte) (s : State) : OpcodeFrame s (s.lookedUp index) := by
  constructor <;> rfl

theorem opcodeFrame_latch (n : Nat) (s : State) : OpcodeFrame s (s.latch n) := by
  constructor <;> rfl

theorem exec_lookup_of_ready {index : Byte} {s : State} (legal : index.toNat < 64) (ready : CanEmit s) :
    exec (.lookup index) s = .next (s.lookedUp index) :=
  execLookup_of_ready legal ready.sink ready.slot

/-- The state after RUN. -/
def State.runStarted (field : Byte) (s : State) : State := (s.advance 1).setRun (runLength field)

theorem opcodeFrame_runStarted (field : Byte) (s : State) : OpcodeFrame s (s.runStarted field) := by
  constructor <;> rfl

theorem exec_run_of_legal {field : Byte} (legal : field.toNat < 62) (s : State) :
    exec (.run field) s = .next (s.runStarted field) :=
  execRun_of_legal legal

/-! ### Completion -/

/-- A committing opcode completes where the row has a slot and the sink accepts. -/
theorem exec_committing_of_ready {i : Instr} {s : State} (kind : Committing i) (ready : CanEmit s) :
    exec i s = .next (committed (committedPixel s.last i) (s.advance (encode i).length)) := by
  rw [exec_of_committing kind, whenFetched_of_ready ready.sink, commit_of_slot (by simpa using ready.slot)]

/-- Settles O15: LIT.RGB commits its three channels with LAST's alpha. -/
theorem litRgbCommitsWithCarriedAlpha : Obligations.LitRgbCommitsWithCarriedAlpha := fun r g b s ready =>
  ⟨_, exec_committing_of_ready (i := .litRgb r g b) trivial ready, committed_advance (literalPixel s.last r g b) 4 s⟩

/-- Settles O16: LIT.RGBA commits its four operands. -/
theorem litRgbaCommitsThePixelRead : Obligations.LitRgbaCommitsThePixelRead := fun r g b a s ready =>
  ⟨_, exec_committing_of_ready (i := .litRgba r g b a) trivial ready, committed_advance ⟨r, g, b, a⟩ 5 s⟩

/-- Settles O17: LOOKUP leaves `lookedUp`. -/
theorem lookupEmitsTheCacheEntry : Obligations.LookupEmitsTheCacheEntry := fun index s legal ready =>
  ⟨s.lookedUp index, exec_lookup_of_ready legal ready, rfl, emits_lookedUp index s, readsPixel_lookedUp index,
    ⟨rfl, rfl, rfl⟩, rfl⟩

/-- Settles O18: the pixel's channels are the sums of `toNat_add8`. -/
theorem sdeltaAddsSmallDeltas : Obligations.SdeltaAddsSmallDeltas := fun dr dg db s ready =>
  ⟨smallDeltaPixel s.last dr dg db, _, exec_committing_of_ready (i := .sdelta dr dg db) trivial ready,
    toNat_add8 _ _, toNat_add8 _ _, toNat_add8 _ _, rfl, committed_advance _ 1 s⟩

/-- Settles O19: the pixel's channels are the sums of `toNat_add8`. -/
theorem ldeltaAddsLumaDeltas : Obligations.LdeltaAddsLumaDeltas := fun vg drg dbg s ready =>
  ⟨lumaDeltaPixel s.last vg drg dbg, _, exec_committing_of_ready (i := .ldelta vg drg dbg) trivial ready,
    toNat_add8 _ _, toNat_add8 _ _, toNat_add8 _ _, rfl, committed_advance _ 2 s⟩

/-- Settles O20: RUN leaves `runStarted`, and the length fits the counter. -/
theorem runSetsTheCounter : Obligations.RunSetsTheCounter := fun _ s legal =>
  ⟨_, exec_run_of_legal legal s, toNat_runLength legal, ⟨rfl, rfl, rfl⟩, rfl, rfl, rfl⟩

/-- Settles O21: packed zero unpacks to (0, 0, 0, 0). -/
theorem lookupOfZeroEntryIsTransparentBlack : Obligations.LookupOfZeroEntryIsTransparentBlack := by
  intro index s legal ready zero
  have black : unpack (cacheRead s (lookupEntry index)) = ⟨0, 0, 0, 0⟩ := by
    rw [lookupEntry_eq, zero]; decide
  have sends := emits_lookedUp index s
  rw [black] at sends
  exact ⟨s.lookedUp index, exec_lookup_of_ready legal ready, black, sends, rfl, rfl, rfl⟩

/-- Settles O22: the entry at the pixel's hash holds the packed pixel, and unpacking undoes packing. -/
theorem lookupAfterCommitGivesThePixel : Obligations.LookupAfterCommitGivesThePixel := by
  intro px s t committedPx ready
  have legal : ((pixelHash px).setWidth 8).toNat < 64 := by
    rw [BitVec.toNat_setWidth]; have := (pixelHash px).isLt; omega
  have entry : unpack (cacheRead t (lookupEntry ((pixelHash px).setWidth 8))) = px := by
    have back : lookupEntry ((pixelHash px).setWidth 8) = pixelHash px :=
      BitVec.setWidth_setWidth_of_le (pixelHash px) (by decide) |>.trans (BitVec.setWidth_eq _)
    rw [back, (commit_next committedPx).2, (commits_committed px s).entry, unpack_pack]
  have sends := emits_lookedUp ((pixelHash px).setWidth 8) t
  rw [entry] at sends
  exact ⟨_, exec_lookup_of_ready legal ready, entry, sends, rfl⟩

/-! ### The defensive checks -/

/-- Settles O23: the check is the meaning's first test; a decoded index is legal. -/
theorem illegalIndexIsRaisedAndUnreachable : Obligations.IllegalIndexIsRaisedAndUnreachable :=
  ⟨fun _ _ illegal => if_pos illegal, fun _ _ _ => decode_lookup_legal, rfl⟩

/-- Settles O24: the check is the meaning's first test; a decoded field is legal. -/
theorem illegalRunLengthIsRaisedAndUnreachable : Obligations.IllegalRunLengthIsRaisedAndUnreachable :=
  ⟨fun _ _ illegal => if_pos illegal, fun _ _ _ => decode_run_legal, rfl⟩

/-! ### Waiting and stopping -/

/-- Settles O25: every emitting opcode is a fetch, which waits in the latches. -/
theorem emittingStepsWaitForTheSink : Obligations.EmittingStepsWaitForTheSink := by
  refine fun s waits => ⟨fun i wf notRun => ?_, whenSinkAccepts_false waits⟩
  obtain ⟨px, derive, shape, -⟩ := exec_of_emitting wf notRun s
  exact shape.trans (whenFetched_waits waits)

/-- Settles O26: every emitting opcode ends in Emit, with the slot of the state it began in. -/
theorem slotOutsideTheRowStops : Obligations.SlotOutsideTheRowStops := by
  intro s accepts outside
  have noSlot : ¬ s.col < s.rowWidth := Nat.not_lt.mpr outside
  refine ⟨fun i wf notRun => ?_, (whenSinkAccepts_true accepts).trans (emit_of_no_slot noSlot)⟩
  obtain ⟨px, derive, shape, sameSlot⟩ := exec_of_emitting wf notRun s
  obtain ⟨sameCol, sameWidth⟩ := sameSlot (s.advance (encode i).length)
  rw [shape, whenFetched_of_ready accepts]
  exact emit_of_no_slot (by rwa [sameCol, sameWidth])

/-! ### Frames -/

/-- Settles O27: a committing opcode holds, or leaves `committed`. -/
theorem committingOpcodesFrame : Obligations.CommittingOpcodesFrame := by
  intro i s t four h
  have kind : Committing i := by
    obtain ⟨r, g, b, rfl⟩ | ⟨r, g, b, a, rfl⟩ | ⟨dr, dg, db, rfl⟩ | ⟨vg, drg, dbg, rfl⟩ := four <;> trivial
  rw [exec_of_committing kind] at h
  obtain ⟨-, rfl⟩ | ⟨-, -, rfl⟩ := commitStep_next h
  · exact ⟨opcodeFrame_latch _ s, rfl, fun _ _ => rfl, fun _ _ => rfl⟩
  · obtain ⟨commits, emits, -, -⟩ := committed_advance (committedPixel s.last i) (encode i).length s
    exact ⟨opcodeFrame_committed_advance _ _ s, rfl, commits.otherEntries, emits.elsewhere⟩

/-- Settles O28: LOOKUP with a legal index holds, or leaves `lookedUp`. -/
theorem lookupFrame : Obligations.LookupFrame := by
  intro index s t legal h
  obtain ⟨illegal, -⟩ | ⟨-, -, rfl⟩ | ⟨-, -, -, rfl⟩ := execLookup_next h
  · omega
  · exact ⟨opcodeFrame_latch _ s, rfl, rfl, fun _ _ => rfl⟩
  · exact ⟨opcodeFrame_lookedUp index s, rfl, rfl, (emits_lookedUp index s).elsewhere⟩

/-- Settles O29: RUN with a legal field leaves `runStarted`. -/
theorem runFrame : Obligations.RunFrame := by
  intro field s t legal h
  obtain ⟨illegal, -⟩ | ⟨-, rfl⟩ := execRun_next h
  · omega
  · exact ⟨opcodeFrame_runStarted field s, rfl, rfl, rfl, rfl, fun _ => rfl⟩

end Sys2Proof.Machine
end

section
/-! PROOFS. What a step of the machine can do, said once: the moves of the environment (`HostMoves`, 45_host_commands,
70_reset_and_hazards) beside those of the core (`CoreMoves`). -/

namespace Sys2Proof.Machine

/-- What a move of the environment does. -/
inductive HostMoves (s : State) : Event → State → Prop where
  | hardReset : HostMoves s .hardReset s.interrupted.registersLost
  | initAccepted (w : Word) (notBusy : s.phase ≠ .busy) : HostMoves s (.init w) ((s.initialised w).reply .accepted)
  | initRefused (w : Word) (busy : s.phase = .busy) : HostMoves s (.init w) (s.reply .notAccepted)
  | rowStarted (idle : s.phase = .idle) : HostMoves s .decodeRow (s.rowStarted.reply .accepted)
  | rowRefused (notIdle : s.phase ≠ .idle) : HostMoves s .decodeRow (s.reply .notAccepted)
  | statusRead (n : Nat) (v : Word) (draws : Nat)
      (known : s.phase ≠ .uninit ∨ n < 2 ∨ 6 < n → v = statusRegister s n) :
      HostMoves s (.readStatus n) { s with replies := s.replies ++ [.status v], draws := draws }
  | sourcePlaced (bytes : List Byte) (after : SourceEnd) :
      HostMoves s (.placeSource bytes after) (s.sourcePlaced bytes after)
  | supplied (bytes : List Byte) (after : SourceEnd) : HostMoves s (.supply bytes after) (s.supplied bytes after)
  | sinkReady (ready : Bool) : HostMoves s (.sinkReady ready) { s with sinkAccepts := ready }
  | freshImage : HostMoves s .freshImage { s with image := [] }

/-- A status read answers a free value only for a register that is unspecified in UNINIT (log entry 5). -/
theorem hostReadStatus_moves (n : Nat) (s : State) : ∃ t, hostReadStatus n s = .next t ∧ HostMoves s (.readStatus n) t := by
  by_cases free : s.phase = .uninit ∧ unspecifiedInUninit n = true
  · refine ⟨_, if_pos free, .statusRead n _ (s.draws + 1) fun known => ?_⟩
    obtain ⟨uninit, unspecified⟩ := free
    have range : 2 ≤ n ∧ n ≤ 6 := of_decide_eq_true unspecified
    obtain initialised | below | above := known
    · exact absurd uninit initialised
    · omega
    · omega
  · exact ⟨_, if_neg free, .statusRead n _ s.draws fun _ => rfl⟩

/-- A move of the environment always answers (log entry 6). -/
theorem handleEvent_moves {e : Event} (notQuiet : e ≠ .quiet) (s : State) :
    ∃ t, handleEvent e s = .next t ∧ HostMoves s e t := by
  cases e with
  | quiet => exact absurd rfl notQuiet
  | hardReset => exact ⟨_, rfl, .hardReset⟩
  | init w =>
    by_cases busy : s.phase = .busy
    · exact ⟨_, hostInit_refused busy, .initRefused w busy⟩
    · exact ⟨_, hostInit_accepted busy, .initAccepted w busy⟩
  | decodeRow =>
    by_cases idle : s.phase = .idle
    · exact ⟨_, hostDecodeRow_accepted idle, .rowStarted idle⟩
    · exact ⟨_, hostDecodeRow_refused idle, .rowRefused idle⟩
  | readStatus n => exact hostReadStatus_moves n s
  | placeSource bytes after => exact ⟨_, rfl, .sourcePlaced bytes after⟩
  | supply bytes after => exact ⟨_, rfl, .supplied bytes after⟩
  | sinkReady ready => exact ⟨_, rfl, .sinkReady ready⟩
  | freshImage => exact ⟨_, rfl, .freshImage⟩

/-- What handling one move can do: the core's step if it is quiet, else the move of the environment. -/
theorem handleEvent_next {e : Event} {s t : State} (h : handleEvent e s = .next t) :
    (e = .quiet ∧ CoreMoves s t) ∨ HostMoves s e t := by
  by_cases quiet : e = .quiet
  · subst quiet; exact .inl ⟨rfl, coreStep_moves h⟩
  · obtain ⟨u, next, move⟩ := handleEvent_moves quiet s
    cases next.symm.trans h
    exact .inr move

/-- A step is a move of the core, with no move of the environment left or a quiet one taken off the list, or the first move
of the environment. -/
theorem step_moves {s t : State} (h : step s = .next t) :
    (s.events = [] ∧ CoreMoves s t) ∨
    (∃ later, s.events = .quiet :: later ∧ CoreMoves { s with events := later } t) ∨
    (∃ e later, s.events = e :: later ∧ HostMoves { s with events := later } e t) := by
  cases moves : s.events with
  | nil => exact .inl ⟨rfl, coreStep_moves ((step_quiet moves).symm.trans h)⟩
  | cons e later =>
    obtain ⟨rfl, move⟩ | move := handleEvent_next ((machineStep_event moves).symm.trans h)
    · exact .inr (.inl ⟨later, rfl, move⟩)
    · exact .inr (.inr ⟨e, later, rfl, move⟩)

/-- With no move of the environment left, a step is a move of the core. -/
theorem step_coreMoves {s t : State} (quiet : s.events = []) (h : step s = .next t) : CoreMoves s t :=
  coreStep_moves ((step_quiet quiet).symm.trans h)

end Sys2Proof.Machine
end

section
/-! PROOFS. The invariant of the machine (10_state R31): it holds at power-on, every move of the core and of the environment
keeps it, and from it no step stops. -/

namespace Sys2Proof.Machine

/-! ### What carries the invariant from one state to the next -/

theorem CacheInv.of_cache_eq {s t : State} (h : CacheInv s) (same : t.cache = s.cache) : CacheInv t := by
  intro i
  simpa only [cacheRead, same] using h i

/-- A commit keeps the cache invariant: the new entry lies at its own hash (10_state R18). -/
theorem CacheInv.commits {px : Pixel} {s t : State} (h : CacheInv s) (commits : Commits px s t) : CacheInv t := by
  intro i
  by_cases atHash : i = pixelHash px
  · right; rw [atHash, commits.entry, unpack_pack]
  · rw [commits.otherEntries i atHash]; exact h i

/-- Where no register of the core changes, the invariant speaks only of the image buffer and the latches. -/
theorem MachineInv.of_sameCore {s t : State} (inv : MachineInv s) (same : SameCore s t) (rows : t.rowsDone = s.rowsDone)
    (imageWf : t.image.wf) (latches : t.latched ≤ bytesInFlight t) : MachineInv t where
  imageWf := imageWf
  errPhase := by rw [same.err, same.phase]; exact inv.errPhase
  errReachable := by rw [same.err]; exact inv.errReachable
  errValue := by rw [same.err]; exact inv.errValue
  latches := latches
  rowDone := by rw [same.rowDone, same.phase, same.col, same.rowWidth]; exact inv.rowDone
  run := by rw [same.phase, same.run]; exact inv.run
  col := by rw [same.phase, same.col, same.rowWidth]; exact inv.col
  cache := by rw [same.phase]; exact fun known => (inv.cache known).of_cache_eq same.cache
  row := by rw [same.phase, same.row, rows]; exact inv.row

theorem MachineInv.rowDone_of_busy {s : State} (inv : MachineInv s) (busy : s.phase = .busy) : s.rowDone ≠ true := by
  intro flag
  have idle := (inv.rowDone flag).1
  rw [busy] at idle
  cases idle

theorem MachineInv.noError {s : State} (inv : MachineInv s) (notFailed : s.phase ≠ .error) : s.err.code = .none :=
  by_contra fun code => notFailed (inv.errPhase.mp code)

theorem ne_uninit_of_busy {s : State} (busy : s.phase = .busy) : s.phase ≠ .uninit := by
  rw [busy]; decide

/-- A step of a row that ends in the row keeps the invariant, if it keeps the bounds of the fields that it writes. -/
theorem MachineInv.of_rowStep {s t : State} (inv : MachineInv s) (busy : s.phase = .busy) (frame : OpcodeFrame s t)
    (imageWf : t.image.wf) (latches : t.latched = 0) (run : t.run.toNat ≤ 62) (col : t.col.toNat ≤ t.rowWidth.toNat)
    (cache : CacheInv t) : MachineInv t where
  imageWf := imageWf
  errPhase := by rw [frame.err, frame.phase]; exact inv.errPhase
  errReachable := by rw [frame.err]; exact inv.errReachable
  errValue := by rw [frame.err]; exact inv.errValue
  latches := by omega
  rowDone := by rw [frame.rowDone]; exact fun flag => absurd flag (inv.rowDone_of_busy busy)
  run := fun _ => run
  col := fun _ => col
  cache := fun _ => cache
  row := by rw [frame.phase, frame.row, frame.rowsDone]; exact inv.row

/-! ### The latches -/

theorem bytesInFlight_of_opcode {s : State} (busy : s.phase = .busy) (notFull : s.col ≠ s.rowWidth) (noRun : s.run = 0) :
    bytesInFlight s = opcodeBytes s.sourceBytes :=
  if_pos ⟨busy, notFull, noRun⟩

/-- Outside an OPCODE step no byte is in flight. -/
theorem bytesInFlight_of_no_opcode {s : State} (h : ¬ (s.phase = .busy ∧ s.col ≠ s.rowWidth ∧ s.run = 0)) :
    bytesInFlight s = 0 :=
  if_neg h

theorem MachineInv.latched_of_no_opcode {s : State} (inv : MachineInv s)
    (h : ¬ (s.phase = .busy ∧ s.col ≠ s.rowWidth ∧ s.run = 0)) : s.latched = 0 := by
  have := inv.latches
  rw [bytesInFlight_of_no_opcode h] at this
  omega

/-- The latches hold no more than is in flight if the stream still begins with what they hold. -/
theorem latched_le_of_stream {s t : State} (latches : s.latched ≤ bytesInFlight s) (phase : t.phase = s.phase)
    (col : t.col = s.col) (width : t.rowWidth = s.rowWidth) (run : t.run = s.run)
    (stream : s.latched ≤ opcodeBytes s.sourceBytes → s.latched ≤ opcodeBytes t.sourceBytes) :
    s.latched ≤ bytesInFlight t := by
  unfold bytesInFlight at latches ⊢
  rw [phase, col, width, run]
  split at latches
  case isTrue opcode => rw [if_pos opcode]; exact stream latches
  case isFalse => omega

/-! ### The steps of the core -/

/-- COL does not wrap below ROW_WIDTH. -/
theorem toNat_col_succ {s : State} (slot : s.col < s.rowWidth) : (s.col + 1).toNat = s.col.toNat + 1 := by
  have := BitVec.lt_def.mp slot
  have := s.rowWidth.isLt
  rw [BitVec.toNat_add, show (1 : Word).toNat = 1 from rfl, Nat.mod_eq_of_lt (by omega)]

theorem MachineInv.rowCompleted {s : State} (inv : MachineInv s) (busy : s.phase = .busy) (full : s.col = s.rowWidth) :
    MachineInv s.rowCompleted where
  imageWf := inv.imageWf
  errPhase := iff_of_false (fun code => code (inv.noError (by rw [busy]; decide))) Phase.noConfusion
  errReachable := inv.errReachable
  errValue := inv.errValue
  latches := Nat.le_of_eq (inv.latched_of_no_opcode fun opcode => opcode.2.1 full) |>.trans (Nat.zero_le _)
  rowDone := fun _ => ⟨rfl, full⟩
  run := fun _ => inv.run (ne_uninit_of_busy busy)
  col := fun _ => Nat.le_of_eq (congrArg BitVec.toNat full)
  cache := fun _ => (inv.cache (ne_uninit_of_busy busy)).of_cache_eq rfl
  row := fun _ => by
    rw [State.rowCompleted_row, State.rowCompleted_rowsDone, inv.row (ne_uninit_of_busy busy), BitVec.ofNat_add]
    rfl

/-- An IOError records at most four bytes: a truncated opcode has no more (60_exceptions R167). -/
theorem MachineInv.ioError {s : State} {k : Nat} (inv : MachineInv s) (busy : s.phase = .busy)
    (short : decode s.sourceBytes = .short k) (sub : BitVec 1) :
    MachineInv ((s.advance k).raised .ioError sub (BitVec.ofNat 8 k)) where
  imageWf := inv.imageWf
  errPhase := iff_of_true ErrCode.noConfusion rfl
  errReachable := .inr rfl
  errValue := by
    have := short_le_four short
    show (BitVec.ofNat 8 k).toNat ≤ 4
    rw [BitVec.toNat_ofNat]
    omega
  latches := Nat.zero_le _
  rowDone := fun flag => absurd flag (inv.rowDone_of_busy busy)
  run := fun _ => inv.run (ne_uninit_of_busy busy)
  col := fun _ => inv.col (ne_uninit_of_busy busy)
  cache := fun _ => (inv.cache (ne_uninit_of_busy busy)).of_cache_eq rfl
  row := fun _ => inv.row (ne_uninit_of_busy busy)

theorem MachineInv.drained {s : State} (inv : MachineInv s) (busy : s.phase = .busy) (slot : s.col < s.rowWidth)
    (pending : 0 < s.run) : MachineInv s.drained := by
  refine inv.of_rowStep busy (opcodeFrame_drained s) (Memory.writePixel_wf _ _ _ inv.imageWf) ?latches ?run ?col ?cache
  case latches =>
    refine inv.latched_of_no_opcode fun ⟨_, _, noRun⟩ => ?_
    rw [noRun] at pending
    exact absurd pending (by decide)
  case run =>
    have := inv.run (ne_uninit_of_busy busy)
    rw [toNat_run_drained (BitVec.lt_def.mp pending)]; omega
  case col => exact (toNat_col_succ slot).trans_le (BitVec.lt_def.mp slot)
  case cache => exact (inv.cache (ne_uninit_of_busy busy)).of_cache_eq rfl

theorem MachineInv.committed {s : State} (inv : MachineInv s) (busy : s.phase = .busy) (slot : s.col < s.rowWidth)
    (px : Pixel) (n : Nat) : MachineInv (committed px (s.advance n)) :=
  inv.of_rowStep busy (opcodeFrame_committed_advance px n s) (Memory.writePixel_wf _ _ _ inv.imageWf) rfl
    (inv.run (ne_uninit_of_busy busy)) ((toNat_col_succ slot).trans_le (BitVec.lt_def.mp slot))
    ((inv.cache (ne_uninit_of_busy busy)).commits (committed_advance px n s).1)

theorem MachineInv.lookedUp {s : State} (inv : MachineInv s) (busy : s.phase = .busy) (slot : s.col < s.rowWidth)
    (index : Byte) : MachineInv (s.lookedUp index) :=
  inv.of_rowStep busy (opcodeFrame_lookedUp index s) (Memory.writePixel_wf _ _ _ inv.imageWf) rfl
    (inv.run (ne_uninit_of_busy busy)) ((toNat_col_succ slot).trans_le (BitVec.lt_def.mp slot))
    ((inv.cache (ne_uninit_of_busy busy)).of_cache_eq rfl)

theorem MachineInv.runStarted {s : State} {field : Byte} (inv : MachineInv s) (busy : s.phase = .busy)
    (legal : field.toNat < 62) : MachineInv (s.runStarted field) :=
  inv.of_rowStep busy (opcodeFrame_runStarted field s) inv.imageWf rfl ((toNat_runLength legal).trans_le legal)
    (inv.col (ne_uninit_of_busy busy)) ((inv.cache (ne_uninit_of_busy busy)).of_cache_eq rfl)

/-- A step of the core keeps the invariant. -/
theorem CoreMoves.keeps_inv {s t : State} (move : CoreMoves s t) (inv : MachineInv s) : MachineInv t := by
  cases move with
  | quiescent => exact inv
  | held n arrived busy notFull noRun =>
    refine inv.of_sameCore (by constructor <;> rfl) rfl inv.imageWf (arrived.trans ?_).le
    exact (bytesInFlight_of_opcode (s := s.latch n) busy notFull noRun).symm
  | drainHeld => exact inv
  | rowComplete busy full => exact inv.rowCompleted busy full
  | drain busy slot pending => exact inv.drained busy slot pending
  | commit _ _ px n _ busy slot => exact inv.committed busy slot px n
  | lookup index _ busy slot => exact inv.lookedUp busy slot index
  | run _ _ busy _ _ _ legal => exact inv.runStarted busy legal
  | ioError _ sub busy _ _ short => exact inv.ioError busy short sub

/-! ### The moves of the environment -/

theorem MachineInv.initialised {s : State} (inv : MachineInv s) (w : Word) : MachineInv (s.initialised w) where
  imageWf := inv.imageWf
  errPhase := iff_of_false (fun code => code rfl) Phase.noConfusion
  errReachable := .inl rfl
  errValue := Nat.zero_le 4
  latches := Nat.zero_le _
  rowDone := fun flag => absurd flag Bool.noConfusion
  run := fun _ => Nat.zero_le 62
  col := fun _ => Nat.zero_le _
  cache := fun _ i => .inl (cacheRead_initialised w s i)
  row := fun _ => rfl

theorem MachineInv.rowStarted {s : State} (inv : MachineInv s) (idle : s.phase = .idle) : MachineInv s.rowStarted := by
  have known : s.phase ≠ .uninit := by rw [idle]; decide
  have noError : s.err.code = .none := inv.noError (by rw [idle]; decide)
  have latches : s.latched = 0 := inv.latched_of_no_opcode fun ⟨busy, _⟩ => by rw [idle] at busy; cases busy
  exact {
    imageWf := inv.imageWf
    errPhase := iff_of_false (fun code => code noError) Phase.noConfusion
    errReachable := inv.errReachable
    errValue := inv.errValue
    latches := latches.trans_le (Nat.zero_le _)
    rowDone := fun flag => absurd flag Bool.noConfusion
    run := fun _ => inv.run known
    col := fun _ => Nat.zero_le _
    cache := fun _ => (inv.cache known).of_cache_eq rfl
    row := fun _ => inv.row known }

/-- A reply is no part of the core. -/
theorem MachineInv.reply {s : State} (inv : MachineInv s) (r : Reply) : MachineInv (s.reply r) :=
  inv.of_sameCore (by constructor <;> rfl) rfl inv.imageWf inv.latches

/-- A step of the core writes the image buffer only by pixels, which keep it canonical. -/
theorem CoreMoves.image_wf {s t : State} (move : CoreMoves s t) (hm : s.image.wf) : t.image.wf := by
  cases move with
  | quiescent | held | drainHeld | rowComplete | run | ioError => exact hm
  | drain | commit | lookup => exact Memory.writePixel_wf _ _ _ hm

/-- The output at hard reset is as before, or has the pixel in flight, once its opcode is all gone. -/
theorem interrupted_output (s : State) :
    (s.interrupted.sent = s.sent ∧ s.interrupted.image = s.image) ∨
    (bytesLost s = bytesInFlight s ∧ s.interrupted.image = (outputInFlight s).1 ∧
      s.interrupted.sent = (outputInFlight s).2) := by
  simp only [State.interrupted]
  split
  · rename_i delivered
    exact .inr ⟨delivered.2, rfl, rfl⟩
  · exact .inl ⟨rfl, rfl⟩

/-- The output in flight is the output as it is, or what the core's step would send had the sink accepted. -/
theorem outputInFlight_cases (s : State) :
    outputInFlight s = (s.image, s.sent) ∨
    ∃ u, coreStep { s with sinkAccepts := true } = .next u ∧ outputInFlight s = (u.image, u.sent) := by
  unfold outputInFlight
  split
  case h_1 u offered => exact .inr ⟨u, offered, rfl⟩
  case h_2 | h_3 => exact .inl rfl

/-- Whether or not the pixel on offer is delivered at hard reset, the image buffer stays canonical. -/
theorem interrupted_image_wf {s : State} (hm : s.image.wf) : s.interrupted.image.wf := by
  obtain ⟨-, same⟩ | ⟨-, image, -⟩ := interrupted_output s
  · rwa [same]
  · obtain same | ⟨u, offered, flight⟩ := outputInFlight_cases s
    · rwa [image, same]
    · rw [image, flight]
      exact (coreStep_moves offered).image_wf hm

/-- In UNINIT the invariant claims nothing of the registers that are unspecified there (10_state R30). -/
theorem MachineInv.of_uninit {s : State} (uninit : s.phase = .uninit) (rowDone : s.rowDone = false) (err : s.err = .clear)
    (imageWf : s.image.wf) (latches : s.latched = 0) : MachineInv s where
  imageWf := imageWf
  errPhase := by rw [err, uninit]; exact iff_of_false (fun code => code rfl) Phase.noConfusion
  errReachable := by rw [err]; exact .inl rfl
  errValue := by rw [err]; exact Nat.zero_le 4
  latches := latches.trans_le (Nat.zero_le _)
  rowDone := by rw [rowDone]; exact fun flag => absurd flag Bool.noConfusion
  run := fun known => absurd uninit known
  col := fun known => absurd uninit known
  cache := fun known => absurd uninit known
  row := fun known => absurd uninit known

/-- A move of the environment keeps the invariant. -/
theorem HostMoves.keeps_inv {e : Event} {s t : State} (move : HostMoves s e t) (inv : MachineInv s) : MachineInv t := by
  cases move with
  | hardReset => exact .of_uninit rfl rfl rfl (interrupted_image_wf inv.imageWf) rfl
  | initAccepted w => exact (inv.initialised w).reply _
  | initRefused | rowRefused => exact inv.reply _
  | rowStarted idle => exact (inv.rowStarted idle).reply _
  | statusRead | sinkReady => exact inv.of_sameCore (by constructor <;> rfl) rfl inv.imageWf inv.latches
  | sourcePlaced bytes after =>
    refine inv.of_sameCore (by constructor <;> rfl) rfl inv.imageWf ?_
    exact latched_le_of_stream (s := s) inv.latches rfl rfl rfl rfl fun le => le_opcodeBytes_append le bytes
  | supplied bytes after =>
    refine inv.of_sameCore (by constructor <;> rfl) rfl inv.imageWf ?_
    exact latched_le_of_stream (s := s) inv.latches rfl rfl rfl rfl fun le => le.trans (opcodeBytes_le_append _ bytes)
  | freshImage => exact inv.of_sameCore (by constructor <;> rfl) rfl Memory.wf_nil inv.latches

/-- The moves still to come are no part of the invariant. -/
theorem MachineInv.with_events {s : State} (inv : MachineInv s) (events : List Event) :
    MachineInv { s with events := events } :=
  inv.of_sameCore (by constructor <;> rfl) rfl inv.imageWf inv.latches

/-- Settles O50: the core's moves and the environment's each keep the invariant. -/
theorem stepKeepsInv : Obligations.StepKeepsInv := by
  intro s t inv h
  obtain ⟨-, move⟩ | ⟨later, -, move⟩ | ⟨e, later, -, move⟩ := step_moves h
  · exact move.keeps_inv inv
  · exact move.keeps_inv (inv.with_events later)
  · exact move.keeps_inv (inv.with_events later)

/-- Settles O49: at power-on the core is in UNINIT with nothing raised, nothing latched and an empty image buffer. -/
theorem invAtPowerOn : Obligations.InvAtPowerOn := .of_uninit rfl rfl rfl reset_image_wf rfl

/-! ### From the invariant the machine steps -/

/-- An opcode completes or waits where the row has a slot. -/
theorem exec_next_of_slot {i : Instr} {s : State} (wf : WellFormed i) (slot : s.col < s.rowWidth) :
    ∃ t, exec i s = .next t := by
  by_cases isRun : ∃ f, i = .run f
  · obtain ⟨f, rfl⟩ := isRun
    exact ⟨_, exec_run_of_legal (of_decide_eq_true wf) s⟩
  · obtain ⟨px, derive, shape, sameSlot⟩ := exec_of_emitting wf (fun f e => isRun ⟨f, e⟩) s
    rw [shape]
    cases sink : s.sinkAccepts with
    | false => exact ⟨_, whenFetched_waits sink⟩
    | true =>
      obtain ⟨sameCol, sameWidth⟩ := sameSlot (s.advance (encode i).length)
      rw [whenFetched_of_ready sink]
      exact ⟨_, emit_of_slot (by rwa [sameCol, sameWidth])⟩

theorem sourceDry_of_ends {s : State} (source : s.sourceEnd = .ends) (k : Nat) :
    sourceDry k s = .next ((s.advance k).raised .ioError 0 (BitVec.ofNat 8 k)) := by
  simp only [sourceDry, source, raise_eq]

theorem sourceDry_of_fails {s : State} (source : s.sourceEnd = .fails) (k : Nat) :
    sourceDry k s = .next ((s.advance k).raised .ioError 1 (BitVec.ofNat 8 k)) := by
  simp only [sourceDry, source, raise_eq]

theorem sourceDry_of_stalls {s : State} (source : s.sourceEnd = .stalls) (k : Nat) :
    sourceDry k s = .next (s.latch k) := by
  simp only [sourceDry, source, hold_eq]

theorem sourceDry_total (k : Nat) (s : State) : ∃ t, sourceDry k s = .next t := by
  cases source : s.sourceEnd with
  | ends => exact ⟨_, sourceDry_of_ends source k⟩
  | fails => exact ⟨_, sourceDry_of_fails source k⟩
  | stalls => exact ⟨_, sourceDry_of_stalls source k⟩

theorem opcodeStep_of_instr {s : State} {i : Instr} {rest : List Byte} (h : decode s.sourceBytes = .instr i rest) :
    opcodeStep s = exec i s := by
  simp only [opcodeStep, h]

theorem opcodeStep_of_short {s : State} {k : Nat} (h : decode s.sourceBytes = .short k) :
    opcodeStep s = sourceDry k s := by
  simp only [opcodeStep, h]

theorem MachineInv.slot {s : State} (inv : MachineInv s) (busy : s.phase = .busy) (notFull : s.col ≠ s.rowWidth) :
    s.col < s.rowWidth :=
  BitVec.lt_def.mpr (Nat.lt_of_le_of_ne (inv.col (ne_uninit_of_busy busy)) fun e => notFull (BitVec.eq_of_toNat_eq e))

/-- From the invariant the core steps: where it emits, COL is below ROW_WIDTH. -/
theorem MachineInv.coreStep_next {s : State} (inv : MachineInv s) : ∃ t, coreStep s = .next t := by
  obtain ⟨-, e⟩ | ⟨-, -, e⟩ | ⟨busy, notFull, -, e⟩ | ⟨busy, notFull, -, e⟩ := coreStep_cases s <;> rw [e]
  · exact ⟨_, rfl⟩
  · exact ⟨_, rfl⟩
  · cases sink : s.sinkAccepts with
    | false => exact ⟨_, whenSinkAccepts_false sink⟩
    | true => exact ⟨_, drain_of_ready sink (inv.slot busy notFull)⟩
  · obtain ⟨i, rest, whole⟩ | ⟨k, short⟩ := decode_cases s.sourceBytes
    · rw [opcodeStep_of_instr whole]
      exact exec_next_of_slot (decode_instr whole).1 (inv.slot busy notFull)
    · rw [opcodeStep_of_short short]
      exact sourceDry_total k s

/-- Settles O51: a move of the environment always answers, and the core's step does from the invariant. -/
theorem stepNeverStops : Obligations.StepNeverStops := by
  intro s inv
  cases moves : s.events with
  | nil => rw [step_quiet moves]; exact inv.coreStep_next
  | cons e later =>
    have handled : step s = handleEvent e { s with events := later } := machineStep_event moves
    rw [handled]
    by_cases quiet : e = .quiet
    · subst quiet; exact (inv.with_events later).coreStep_next
    · obtain ⟨t, next, -⟩ := handleEvent_moves quiet { s with events := later }
      exact ⟨t, next⟩

end Sys2Proof.Machine
end

section
/-! PROOFS. The steps of a row (40_sequencer R80 to R86): what a step of a busy core does to the row, the number of steps
the row can still take, and what the two loops of the source's `decode_row` do at each of them (R93). -/

namespace Sys2Proof.Machine

/-! ### What a step does to a row -/

/-- The core is held: by the sink with a pixel on offer, or by the source with a read pending. -/
def Waits (s : State) : Prop :=
  (s.sinkAccepts = false ∧ PixelOffered s) ∨ (s.sourceEnd = .stalls ∧ ReadPending s)

/-- What a step of a busy core that nothing holds does to its row. -/
inductive RowMoves (s : State) : State → Prop where
  | complete (full : s.col = s.rowWidth) : RowMoves s s.rowCompleted
  | drain (slot : s.col < s.rowWidth) (pending : 0 < s.run) : RowMoves s s.drained
  /-- an opcode fills a slot, or sets the counter -/
  | opcode (t : State) (notFull : s.col ≠ s.rowWidth) (noRun : s.run = 0) (stepped : opcodeStep s = .next t)
      (frame : OpcodeFrame s t)
      (effect : (s.col < s.rowWidth ∧ t.col = s.col + 1 ∧ t.run = 0) ∨ (t.col = s.col ∧ 0 < t.run)) : RowMoves s t
  | ioError (t : State) (notFull : s.col ≠ s.rowWidth) (noRun : s.run = 0) (stepped : opcodeStep s = .next t)
      (failed : t.phase = .error) (code : t.err.code = .ioError) (run : t.run = s.run)
      (events : t.events = s.events) : RowMoves s t

theorem runLength_pos {f : Byte} (legal : f.toNat < 62) : 0 < runLength f := by
  rw [BitVec.lt_def, toNat_runLength legal]
  exact Nat.succ_pos _

/-- An OPCODE step waits, or is a move of the row. -/
theorem rowMoves_of_opcodeStep {s t : State} (busy : s.phase = .busy) (notFull : s.col ≠ s.rowWidth) (noRun : s.run = 0)
    (h : opcodeStep s = .next t) : (Waits s ∧ ∃ n, t = s.latch n) ∨ RowMoves s t := by
  have notPending : ¬ 0 < s.run := fun pending => (BitVec.ne_of_lt pending).symm noRun
  cases opcodeStep_moves busy notFull noRun h with
  | quiescent notBusy => exact absurd busy notBusy
  | drainHeld _ _ pending | drain _ _ pending => exact absurd pending notPending
  | rowComplete _ full => exact absurd full notFull
  | held n _ _ _ _ why =>
    refine .inl ⟨why.imp (fun ⟨sink, offered⟩ => ⟨sink, busy, notFull, .inr offered⟩)
      fun ⟨source, short⟩ => ⟨source, busy, notFull, noRun, short⟩, n, rfl⟩
  | commit _ _ px n _ _ slot =>
    exact .inr (.opcode _ notFull noRun h (opcodeFrame_committed_advance px n s) (.inl ⟨slot, rfl, noRun⟩))
  | lookup index _ _ slot =>
    exact .inr (.opcode _ notFull noRun h (opcodeFrame_lookedUp index s) (.inl ⟨slot, rfl, noRun⟩))
  | run field _ _ _ _ _ legal =>
    exact .inr (.opcode _ notFull noRun h (opcodeFrame_runStarted field s) (.inr ⟨rfl, runLength_pos legal⟩))
  | ioError => exact .inr (.ioError _ notFull noRun h rfl rfl rfl rfl)

/-- A step of a busy core waits, or is a move of the row. -/
theorem rowMoves_of_coreStep {s t : State} (busy : s.phase = .busy) (h : coreStep s = .next t) :
    (Waits s ∧ ∃ n, t = s.latch n) ∨ RowMoves s t := by
  obtain ⟨notBusy, -⟩ | ⟨-, full, e⟩ | ⟨-, notFull, pending, e⟩ | ⟨-, notFull, noRun, e⟩ := coreStep_cases s
  · exact absurd busy notBusy
  · cases e.symm.trans h
    exact .inr (.complete full)
  · obtain ⟨sink, rfl⟩ | ⟨-, slot, rfl⟩ := drain_next (e.symm.trans h)
    · exact .inl ⟨.inl ⟨sink, busy, notFull, .inl pending⟩, t.latched, rfl⟩
    · exact .inr (.drain slot pending)
  · exact rowMoves_of_opcodeStep busy notFull noRun (e.symm.trans h)

/-! ### The steps a row can still take -/

/-- The slots left of the row. -/
def slotsLeft (s : State) : Nat := s.rowWidth.toNat - s.col.toNat

/-- A bound on the steps left of a row that nothing holds (40_sequencer R86): for each slot an opcode and a pixel, less the
opcode already taken if a run is pending, and ROW-COMPLETE. -/
def rowSteps (s : State) : Nat := 2 * slotsLeft s + if s.run = 0 ∨ s.col = s.rowWidth then 1 else 0

theorem rowSteps_le (s : State) : rowSteps s ≤ 2 * slotsLeft s + 1 := by
  unfold rowSteps; split <;> omega

theorem rowSteps_of_noRun {s : State} (noRun : s.run = 0) : rowSteps s = 2 * slotsLeft s + 1 := by
  rw [rowSteps, if_pos (.inl noRun)]

theorem rowSteps_of_pending {s : State} (notFull : s.col ≠ s.rowWidth) (pending : 0 < s.run) :
    rowSteps s = 2 * slotsLeft s := by
  have running : s.run ≠ 0 := (BitVec.ne_of_lt pending).symm
  rw [rowSteps, if_neg (not_or.mpr ⟨running, notFull⟩), Nat.add_zero]

/-- A pixel takes one slot. -/
theorem slotsLeft_of_col_succ {s t : State} (slot : s.col < s.rowWidth) (width : t.rowWidth = s.rowWidth)
    (col : t.col = s.col + 1) : slotsLeft t + 1 = slotsLeft s := by
  have := BitVec.lt_def.mp slot
  rw [slotsLeft, slotsLeft, width, col, toNat_col_succ slot]
  omega

/-- Every move that does not end the row leaves fewer steps. -/
theorem RowMoves.rowSteps_lt {s t : State} (move : RowMoves s t) (busy : t.phase = .busy) : rowSteps t < rowSteps s := by
  have atMost := rowSteps_le t
  cases move with
  | complete => cases busy
  | drain slot pending =>
    have := slotsLeft_of_col_succ (t := s.drained) slot rfl rfl
    rw [rowSteps_of_pending (BitVec.ne_of_lt slot) pending]
    omega
  | opcode _ notFull noRun _ frame effect =>
    rw [rowSteps_of_noRun noRun]
    obtain ⟨slot, col, -⟩ | ⟨col, pending⟩ := effect
    · have := slotsLeft_of_col_succ slot frame.rowWidth col
      omega
    · have same : slotsLeft t = slotsLeft s := by rw [slotsLeft, slotsLeft, frame.rowWidth, col]
      rw [rowSteps_of_pending (by rwa [frame.rowWidth, col]) pending, same]
      omega
  | ioError _ _ _ _ failed => rw [failed] at busy; cases busy

/-! ### The source's two loops -/

/-- The rest of a row with at most `m` turns of the second loop. -/
def decodeRowFrom (m : Nat) (s : State) : Result :=
  andThen (drainLoop 62 s) fun t => andThen (fillLoop m t) finishRow

theorem decodeRowRest_eq (s : State) : decodeRowRest s = decodeRowFrom s.rowWidth.toNat s := rfl

/-- The turns of the second loop that a row can still take: each fills a slot, and a pending run fills one before them. -/
def turnsLeft (s : State) : Nat := slotsLeft s - if s.run = 0 then 0 else 1

theorem turnsLeft_of_noRun {s : State} (noRun : s.run = 0) : turnsLeft s = slotsLeft s := by
  rw [turnsLeft, if_pos noRun, Nat.sub_zero]

theorem turnsLeft_of_pending {s : State} (pending : 0 < s.run) : turnsLeft s = slotsLeft s - 1 := by
  have running : s.run ≠ 0 := (BitVec.ne_of_lt pending).symm
  rw [turnsLeft, if_neg running]

theorem turnsLeft_le (s : State) : turnsLeft s ≤ slotsLeft s := Nat.sub_le _ _

theorem slotsLeft_pos {s : State} (slot : s.col < s.rowWidth) : 0 < slotsLeft s :=
  Nat.sub_pos_of_lt (BitVec.lt_def.mp slot)

/-- An opcode is one turn, whether it fills its slot or leaves that to the run it sets. -/
theorem turnsLeft_of_opcode {s t : State} (slot : s.col < s.rowWidth) (noRun : s.run = 0) (width : t.rowWidth = s.rowWidth)
    (effect : (s.col < s.rowWidth ∧ t.col = s.col + 1 ∧ t.run = 0) ∨ (t.col = s.col ∧ 0 < t.run)) :
    turnsLeft t + 1 = turnsLeft s := by
  rw [turnsLeft_of_noRun noRun]
  obtain ⟨-, col, noRun'⟩ | ⟨col, pending⟩ := effect
  · rw [turnsLeft_of_noRun noRun', slotsLeft_of_col_succ slot width col]
  · have := slotsLeft_pos slot
    have same : slotsLeft t = slotsLeft s := by rw [slotsLeft, slotsLeft, width, col]
    rw [turnsLeft_of_pending pending, same]
    omega

theorem drainLoop_of_done {s : State} (h : ¬ (0 < s.run ∧ s.col < s.rowWidth)) (n : Nat) : drainLoop n s = .next s := by
  cases n with
  | zero => rfl
  | succ n => exact if_neg h

theorem drainLoop_of_noRun {s : State} (noRun : s.run = 0) (n : Nat) : drainLoop n s = .next s :=
  drainLoop_of_done (fun more => (BitVec.ne_of_lt more.1).symm noRun) n

theorem drainLoop_of_pending {s : State} (sink : s.sinkAccepts = true) (slot : s.col < s.rowWidth) (pending : 0 < s.run)
    (n : Nat) : drainLoop (n + 1) s = drainLoop n s.drained := by
  rw [drainLoop, if_pos ⟨pending, slot⟩, drain_of_ready sink slot]
  rfl

/-- The first loop takes at most as many turns as the counter says. -/
theorem drainLoop_succ {n : Nat} {s : State} (sink : s.sinkAccepts = true) (enough : s.run.toNat ≤ n) :
    drainLoop (n + 1) s = drainLoop n s := by
  induction n generalizing s with
  | zero =>
    have noRun : s.run = 0 := BitVec.eq_of_toNat_eq (Nat.le_zero.mp enough)
    rw [drainLoop_of_noRun noRun, drainLoop_of_noRun noRun]
  | succ n ih =>
    by_cases more : 0 < s.run ∧ s.col < s.rowWidth
    · obtain ⟨pending, slot⟩ := more
      have fewer := toNat_run_drained (BitVec.lt_def.mp pending)
      rw [drainLoop_of_pending sink slot pending, drainLoop_of_pending sink slot pending,
        ih (s := s.drained) sink (by omega)]
    · rw [drainLoop_of_done more, drainLoop_of_done more]

theorem fillLoop_of_done {s : State} (h : ¬ (s.phase = .busy ∧ s.col < s.rowWidth)) (m : Nat) :
    fillLoop m s = .next s := by
  cases m with
  | zero => rfl
  | succ m => exact if_neg h

theorem decodeRowFrom_of_full {s : State} (busy : s.phase = .busy) (full : s.col = s.rowWidth) (m : Nat) :
    decodeRowFrom m s = .next s.rowCompleted := by
  have noSlot : ¬ s.col < s.rowWidth := by rw [full]; exact BitVec.lt_irrefl _
  rw [decodeRowFrom, drainLoop_of_done fun more => noSlot more.2, andThen_next,
    fillLoop_of_done fun more => noSlot more.2, andThen_next, finishRow, if_pos busy, rowComplete_eq]

theorem decodeRowFrom_of_not_busy {s : State} (ended : s.phase ≠ .busy) (noRun : s.run = 0) (m : Nat) :
    decodeRowFrom m s = .next s := by
  rw [decodeRowFrom, drainLoop_of_noRun noRun, andThen_next, fillLoop_of_done fun more => ended more.1, andThen_next,
    finishRow, if_neg ended]

theorem decodeRowFrom_of_pending {s : State} (sink : s.sinkAccepts = true) (slot : s.col < s.rowWidth) (pending : 0 < s.run)
    (bound : s.run.toNat ≤ 62) (m : Nat) : decodeRowFrom m s = decodeRowFrom m s.drained := by
  have fewer := toNat_run_drained (BitVec.lt_def.mp pending)
  rw [decodeRowFrom, drainLoop_of_pending sink slot pending, ← drainLoop_succ (s := s.drained) sink (by omega)]
  rfl

theorem andThen_assoc (o : Result) (f g : State → Result) :
    andThen (andThen o f) g = andThen o fun s => andThen (f s) g := by
  cases o <;> rfl

theorem decodeRowFrom_of_opcode {s t : State} (busy : s.phase = .busy) (slot : s.col < s.rowWidth) (noRun : s.run = 0)
    (stepped : opcodeStep s = .next t) (m : Nat) : decodeRowFrom (m + 1) s = decodeRowFrom m t := by
  rw [decodeRowFrom, drainLoop_of_noRun noRun, andThen_next, fillLoop, if_pos ⟨busy, slot⟩, stepped, andThen_next,
    andThen_assoc, decodeRowFrom]

/-! ### A row that nothing holds -/

/-- A row is under way in a state of the invariant, and nothing holds the core. -/
structure RowFlows (s : State) : Prop where
  inv : MachineInv s
  busy : s.phase = .busy
  flowing : Flowing s

/-- How a row that began in `s` ends in `t`. -/
def RowEnds (s t : State) : Prop :=
  (t.phase = .idle ∧ t.rowDone = true ∧ t.col = s.rowWidth ∧ t.row = s.row + 1) ∨
  (t.phase = .error ∧ t.err.code = .ioError)

theorem RowFlows.not_waits {s : State} (flows : RowFlows s) : ¬ Waits s := by
  rintro (⟨sink, -⟩ | ⟨source, -⟩)
  · rw [flows.flowing.sink] at sink; cases sink
  · exact flows.flowing.source source

/-- A flowing row takes one of the moves of a row. -/
theorem RowFlows.step_next {s : State} (flows : RowFlows s) :
    ∃ t, step s = .next t ∧ RowMoves s t ∧ MachineInv t := by
  obtain ⟨t, next⟩ := flows.inv.coreStep_next
  obtain ⟨waits, -⟩ | move := rowMoves_of_coreStep flows.busy next
  · exact absurd waits flows.not_waits
  · exact ⟨t, (step_quiet flows.flowing.quiet).trans next, move, (coreStep_moves next).keeps_inv flows.inv⟩

theorem RowFlows.of_frame {s t : State} (flows : RowFlows s) (inv : MachineInv t) (frame : OpcodeFrame s t) :
    RowFlows t where
  inv := inv
  busy := frame.phase.trans flows.busy
  flowing := by
    obtain ⟨source, sink, quiet⟩ := flows.flowing
    exact ⟨by rwa [frame.sourceEnd], frame.sinkAccepts.trans sink, frame.events.trans quiet⟩

theorem RowEnds.of_frame {s t u : State} (ends : RowEnds t u) (frame : OpcodeFrame s t) : RowEnds s u := by
  unfold RowEnds at ends ⊢
  rwa [frame.rowWidth, frame.row] at ends

/-- Outside BUSY the steps of a quiet environment change nothing. -/
theorem runSteps_of_not_busy {s : State} (quiet : s.events = []) (ended : s.phase ≠ .busy) (n : Nat) :
    runSteps n s = .next s := by
  induction n with
  | zero => rfl
  | succ n ih => rw [runSteps, step_quiet quiet, coreStep_of_not_busy ended, andThen_next, ih]

theorem rowSteps_pos {s : State} (flows : RowFlows s) : 0 < rowSteps s := by
  by_cases last : s.run = 0 ∨ s.col = s.rowWidth
  · rw [rowSteps, if_pos last]; exact Nat.succ_pos _
  · have := slotsLeft_pos (flows.inv.slot flows.busy fun full => last (.inr full))
    rw [rowSteps]; omega

/-- A flowing row ends within `rowSteps` steps, in the state that the source's two loops leave (40_sequencer R86, R93).
Steps after the end change nothing. -/
theorem RowFlows.ends {n : Nat} {s : State} (flows : RowFlows s) (enough : rowSteps s ≤ n) :
    ∃ t, runSteps n s = .next t ∧ RowEnds s t ∧ ∀ m, turnsLeft s ≤ m → decodeRowFrom m s = .next t := by
  induction n generalizing s with
  | zero => exact absurd (rowSteps_pos flows) (by omega)
  | succ n ih =>
    obtain ⟨t, next, move, inv⟩ := flows.step_next
    have shorter := move.rowSteps_lt
    rw [runSteps, next, andThen_next]
    obtain ⟨source, sink, quiet⟩ := flows.flowing
    cases move with
    | complete full =>
      exact ⟨s.rowCompleted, runSteps_of_not_busy (s := s.rowCompleted) quiet Phase.noConfusion n, .inl ⟨rfl, rfl, full, rfl⟩,
        fun m _ => decodeRowFrom_of_full flows.busy full m⟩
    | drain slot pending =>
      have frame := opcodeFrame_drained s
      obtain ⟨u, runs, ends, loops⟩ := ih (flows.of_frame inv frame) (by have := shorter flows.busy; omega)
      refine ⟨u, runs, ends.of_frame frame, fun m turns => ?_⟩
      rw [decodeRowFrom_of_pending sink slot pending (flows.inv.run (ne_uninit_of_busy flows.busy))]
      refine loops m ?_
      have fewer := slotsLeft_of_col_succ (t := s.drained) slot rfl rfl
      have atMost := turnsLeft_le s.drained
      rw [turnsLeft_of_pending pending] at turns
      omega
    | opcode _ notFull noRun stepped frame effect =>
      have slot := flows.inv.slot flows.busy notFull
      obtain ⟨u, runs, ends, loops⟩ :=
        ih (flows.of_frame inv frame) (by have := shorter (frame.phase.trans flows.busy); omega)
      refine ⟨u, runs, ends.of_frame frame, fun m turns => ?_⟩
      have fewer := turnsLeft_of_opcode slot noRun frame.rowWidth effect
      obtain ⟨m, rfl⟩ : ∃ k, m = k + 1 := ⟨m - 1, by omega⟩
      rw [decodeRowFrom_of_opcode flows.busy slot noRun stepped]
      exact loops m (by omega)
    | ioError _ notFull noRun stepped failed code run events =>
      have slot := flows.inv.slot flows.busy notFull
      have ended : t.phase ≠ .busy := by rw [failed]; decide
      refine ⟨t, runSteps_of_not_busy (events.trans quiet) ended n, .inr ⟨failed, code⟩, fun m turns => ?_⟩
      have turn : 0 < turnsLeft s := (slotsLeft_pos slot).trans_eq (turnsLeft_of_noRun noRun).symm
      obtain ⟨m, rfl⟩ : ∃ k, m = k + 1 := ⟨m - 1, by omega⟩
      rw [decodeRowFrom_of_opcode flows.busy slot noRun stepped]
      exact decodeRowFrom_of_not_busy ended (run.trans noRun) m

/-- Settles O58: the row ends by steps and by the loops in the same state, and ROW_WIDTH turns are enough. -/
theorem stepsOfARowAreDecodeRow : Obligations.StepsOfARowAreDecodeRow := by
  intro s inv busy flowing
  obtain ⟨t, runs, -, loops⟩ := RowFlows.ends ⟨inv, busy, flowing⟩ (rowSteps_le s)
  have enough : turnsLeft s ≤ s.rowWidth.toNat := (turnsLeft_le s).trans (Nat.sub_le _ _)
  calc runSteps (2 * (s.rowWidth.toNat - s.col.toNat) + 1) s
    _ = .next t := runs
    _ = decodeRowFrom s.rowWidth.toNat s := (loops _ enough).symm
    _ = decodeRowRest s := (decodeRowRest_eq s).symm

end Sys2Proof.Machine
end

section
/-! PROOFS. Endless runs (70_reset_and_hazards R226): while a row neither ends nor moves on, it keeps what the core waits
for, so that weak fairness of core, sink and source contradicts waiting for ever. -/

namespace Sys2Proof.Machine

/-! ### What a row keeps while the core does not move on -/

/-- The row is where it was, and the stream has at most grown. -/
structure RowKept (s t : State) : Prop where
  phase : t.phase = s.phase
  col : t.col = s.col
  rowWidth : t.rowWidth = s.rowWidth
  run : t.run = s.run
  stream : ∃ more, t.sourceBytes = s.sourceBytes ++ more

theorem RowKept.of_same_stream {s t : State} (phase : t.phase = s.phase) (col : t.col = s.col)
    (rowWidth : t.rowWidth = s.rowWidth) (run : t.run = s.run) (stream : t.sourceBytes = s.sourceBytes) : RowKept s t :=
  ⟨phase, col, rowWidth, run, [], by rw [stream, List.append_nil]⟩

theorem RowKept.refl (s : State) : RowKept s s := .of_same_stream rfl rfl rfl rfl rfl

theorem RowKept.trans {s t u : State} (first : RowKept s t) (second : RowKept t u) : RowKept s u where
  phase := second.phase.trans first.phase
  col := second.col.trans first.col
  rowWidth := second.rowWidth.trans first.rowWidth
  run := second.run.trans first.run
  stream := by
    obtain ⟨early, hEarly⟩ := first.stream
    obtain ⟨late, hLate⟩ := second.stream
    exact ⟨early ++ late, by rw [hLate, hEarly, List.append_assoc]⟩

theorem RowKept.rowSteps_eq {s t : State} (kept : RowKept s t) : rowSteps t = rowSteps s := by
  simp only [rowSteps, slotsLeft, kept.col, kept.rowWidth, kept.run]

/-- In BUSY the host, if it neither resets nor places another source, keeps the row. -/
theorem HostMoves.keeps_row {e : Event} {s t : State} (move : HostMoves s e t) (busy : s.phase = .busy)
    (noReset : e ≠ .hardReset) (noSource : ∀ bytes after, e ≠ .placeSource bytes after) : RowKept s t := by
  cases move with
  | hardReset => exact absurd rfl noReset
  | initAccepted _ notBusy => exact absurd busy notBusy
  | rowStarted idle => rw [busy] at idle; cases idle
  | sourcePlaced bytes after => exact absurd rfl (noSource bytes after)
  | supplied bytes => exact ⟨rfl, rfl, rfl, rfl, bytes, rfl⟩
  | initRefused | rowRefused | statusRead | sinkReady | freshImage => exact .of_same_stream rfl rfl rfl rfl rfl

/-- A pixel on offer stays on offer. -/
theorem RowKept.pixelOffered {s t : State} (kept : RowKept s t) (offered : PixelOffered s) : PixelOffered t := by
  obtain ⟨busy, notFull, why⟩ := offered
  refine ⟨kept.phase.trans busy, by rwa [kept.col, kept.rowWidth], ?_⟩
  obtain pending | ⟨i, rest, whole, notRun⟩ := why
  · left; rwa [kept.run]
  · obtain ⟨more, stream⟩ := kept.stream
    right; exact ⟨i, rest ++ more, by rw [stream, decode_append whole more], notRun⟩

/-- A read that is pending now was pending before: more bytes make no opcode shorter. -/
theorem RowKept.readPending {s t : State} (kept : RowKept s t) (pending : ReadPending t) : ReadPending s := by
  obtain ⟨busy, notFull, noRun, k, short⟩ := pending
  refine ⟨kept.phase.symm.trans busy, by rwa [kept.col, kept.rowWidth] at notFull, kept.run.symm.trans noRun, ?_⟩
  obtain ⟨i, rest, whole⟩ | short' := decode_cases s.sourceBytes
  · obtain ⟨more, stream⟩ := kept.stream
    rw [stream, decode_append whole more] at short
    cases short
  · exact short'

theorem ReadPending.not_pixelOffered {s : State} (pending : ReadPending s) : ¬ PixelOffered s := by
  obtain ⟨-, -, noRun, k, short⟩ := pending
  rintro ⟨-, -, running | ⟨i, rest, whole, -⟩⟩
  · exact (BitVec.ne_of_lt running).symm noRun
  · cases short.symm.trans whole

/-! ### A run that waits for ever is not fair -/

section Stuck

variable {env : Nat → Event} {σ : Nat → State} {n : Nat}
  (steps : ∀ m, n ≤ m → RowKept (σ m) (σ (m + 1)))
  (waits : ∀ m, n ≤ m → env m = .quiet → Waits (σ m))
  (fair : Fair env σ)

include steps

theorem rowKept_of_stuck {k m : Nat} (hk : n ≤ k) (hm : k ≤ m) : RowKept (σ k) (σ m) := by
  induction m, hm using Nat.le_induction with
  | base => exact .refl _
  | succ m hm same => exact same.trans (steps m (hk.trans hm))

include waits fair

/-- By fairness of the sink, no pixel is on offer. -/
theorem not_pixelOffered_of_stuck {k : Nat} (hk : n ≤ k) : ¬ PixelOffered (σ k) := by
  intro offered
  have stays m (hm : k ≤ m) : PixelOffered (σ m) := (rowKept_of_stuck steps hk hm).pixelOffered offered
  obtain ⟨m, hm, quiet, accepts⟩ := fair.sink k stays
  obtain ⟨refuses, -⟩ | ⟨-, pending⟩ := waits m (hk.trans hm) quiet
  · rw [accepts] at refuses; cases refuses
  · exact pending.not_pixelOffered (stays m hm)

/-- By fairness of the core, a read is pending. -/
theorem readPending_of_stuck (busy : (σ n).phase = .busy) {k : Nat} (hk : n ≤ k) : ReadPending (σ k) := by
  obtain ⟨m, hm, quiet⟩ := fair.core k fun m hm => (rowKept_of_stuck steps (Nat.le_refl n) (hk.trans hm)).phase.trans busy
  obtain ⟨-, offered⟩ | ⟨-, pending⟩ := waits m (hk.trans hm) quiet
  · exact absurd offered (not_pixelOffered_of_stuck steps waits fair (hk.trans hm))
  · exact (rowKept_of_stuck steps hk hm).readPending pending

/-- By fairness of the source, no read is pending for ever. -/
theorem not_busy_of_stuck : (σ n).phase ≠ .busy := by
  intro busy
  obtain ⟨m, hm, quiet, answers⟩ := fair.source n fun m hm => readPending_of_stuck steps waits fair busy hm
  obtain ⟨-, offered⟩ | ⟨stalls, -⟩ := waits m hm quiet
  · exact not_pixelOffered_of_stuck steps waits fair hm offered
  · exact answers stalls

end Stuck

/-! ### A row ends in every fair run -/

/-- The row is complete, or an error was raised. -/
def RowOver (s : State) : Prop := (s.phase = .idle ∧ s.rowDone = true) ∨ s.phase = .error

/-- A move of the row ends it or leaves it busy with fewer steps. -/
theorem RowMoves.over_or_shorter {s t : State} (move : RowMoves s t) (busy : s.phase = .busy) :
    RowOver t ∨ (t.phase = .busy ∧ rowSteps t < rowSteps s) := by
  have shorter := move.rowSteps_lt
  cases move with
  | complete => exact .inl (.inl ⟨rfl, rfl⟩)
  | drain => exact .inr ⟨busy, shorter busy⟩
  | opcode _ _ _ _ frame => exact .inr ⟨frame.phase.trans busy, shorter (frame.phase.trans busy)⟩
  | ioError _ _ _ _ failed => exact .inl (.inr failed)

/-- A step of an endless run in a row keeps it, and if it is the core's the core waits; or it ends the row; or it leaves
fewer steps. -/
theorem IsRun.row_step {env : Nat → Event} {σ : Nat → State} (isRun : IsRun env σ) (leaves : HostLeavesRow env σ) {m : Nat}
    (busy : (σ m).phase = .busy) :
    (RowKept (σ m) (σ (m + 1)) ∧ (env m = .quiet → Waits (σ m))) ∨ RowOver (σ (m + 1)) ∨
    ((σ (m + 1)).phase = .busy ∧ rowSteps (σ (m + 1)) < rowSteps (σ m)) := by
  have handled : handleEvent (env m) { σ m with events := [] } = .next (σ (m + 1)) := isRun m
  by_cases quiet : env m = .quiet
  · rw [quiet] at handled
    obtain ⟨waits, k, held⟩ | move := rowMoves_of_coreStep (s := { σ m with events := [] }) busy handled
    · left
      rw [held]
      exact ⟨.of_same_stream rfl rfl rfl rfl rfl, fun _ => waits⟩
    · exact .inr (move.over_or_shorter busy)
  · obtain ⟨isQuiet, -⟩ | move := handleEvent_next handled
    · exact absurd isQuiet quiet
    · obtain ⟨noReset, noSource⟩ := leaves m busy
      obtain ⟨phase, col, width, run, stream⟩ := move.keeps_row busy noReset noSource
      exact .inl ⟨⟨phase, col, width, run, stream⟩, fun isQuiet => absurd isQuiet quiet⟩

/-- In a fair run a row that is under way ends: by induction on the steps it can still take, since a row that took none of
them would be stuck. -/
theorem row_over_of_fair {env : Nat → Event} {σ : Nat → State} (isRun : IsRun env σ) (fair : Fair env σ)
    (leaves : HostLeavesRow env σ) (n : Nat) (busy : (σ n).phase = .busy) : ∃ m, n < m ∧ RowOver (σ m) := by
  induction left : rowSteps (σ n) using Nat.strong_induction_on generalizing n with
  | _ steps ih =>
    by_contra never
    have step m (hm : n ≤ m) (same : RowKept (σ n) (σ m)) :
        RowKept (σ m) (σ (m + 1)) ∧ (env m = .quiet → Waits (σ m)) := by
      obtain stays | ends | ⟨busy', shorter⟩ := isRun.row_step leaves (same.phase.trans busy)
      · exact stays
      · exact absurd ⟨m + 1, by omega, ends⟩ never
      · rw [same.rowSteps_eq, left] at shorter
        obtain ⟨k, hk, ends⟩ := ih _ shorter (m + 1) busy' rfl
        exact absurd ⟨k, by omega, ends⟩ never
    have fromStart m (hm : n ≤ m) : RowKept (σ n) (σ m) := by
      induction m, hm using Nat.le_induction with
      | base => exact .refl _
      | succ m hm same => exact same.trans (step m hm same).1
    have stuck m (hm : n ≤ m) := step m hm (fromStart m hm)
    exact not_busy_of_stuck (fun m hm => (stuck m hm).1) (fun m hm => (stuck m hm).2) fair busy

/-- Settles O57: a flowing row ends by `RowFlows.ends`, a fair one by `row_over_of_fair`. -/
theorem rowEnds : Obligations.RowEnds := by
  refine ⟨fun s inv busy flowing => ?_, fun env σ => row_over_of_fair⟩
  obtain ⟨t, runs, ends, -⟩ := RowFlows.ends ⟨inv, busy, flowing⟩ (rowSteps_le s)
  exact ⟨t, runs, ends⟩

end Sys2Proof.Machine
end

section
/-! PROOFS. The OPCODE step and runs of steps (40_sequencer R84, 44_run): the step is the decoded opcode's meaning, a truncated
opcode raises IOError or waits, and a run is paid out. -/

namespace Sys2Proof.Machine

/-! ### The OPCODE step -/

/-- Where the sequencer selects OPCODE and the stream has a whole opcode, the core's step is its meaning. -/
theorem coreStep_of_instr {s : State} {i : Instr} {rest : List Byte} (busy : s.phase = .busy) (notFull : s.col ≠ s.rowWidth)
    (noRun : s.run = 0) (whole : decode s.sourceBytes = .instr i rest) : coreStep s = exec i s :=
  (coreStep_of_noRun busy notFull noRun).trans (opcodeStep_of_instr whole)

/-- Settles O30: the step is the core's, on the state without the quiet move. -/
theorem stepRunsTheDecodedInstruction : Obligations.StepRunsTheDecodedInstruction := fun s _ _ busy notFull noRun whole =>
  ⟨fun quiet => (step_quiet quiet).trans (coreStep_of_instr busy notFull noRun whole),
    fun later move => (machineStep_event move).trans
      (coreStep_of_instr (s := { s with events := later }) busy notFull noRun whole)⟩

theorem bitVec_pos_of_ne_zero {w : Nat} {x : BitVec w} (h : x ≠ 0) : 0 < x := by
  rw [BitVec.lt_def, show (0 : BitVec w) = 0#w from rfl, BitVec.toNat_zero]
  exact Nat.pos_of_ne_zero fun zero => h (BitVec.eq_of_toNat_eq (zero.trans BitVec.toNat_zero.symm))

/-- A state made ready for an OPCODE step has a slot. -/
theorem readyForOpcode_slot (s : State) : (readyForOpcode s).col < (readyForOpcode s).rowWidth := by
  have widthPos : 0 < (if s.rowWidth = 0 then 1 else s.rowWidth) := by
    split
    case isTrue => decide
    case isFalse wide => exact bitVec_pos_of_ne_zero wide
  simp only [readyForOpcode]
  by_cases slot : s.col < s.rowWidth
  · have wide : s.rowWidth ≠ 0 := fun zero => by rw [zero] at slot; exact BitVec.not_lt_zero slot
    rwa [if_pos slot, if_neg wide]
  · rwa [if_neg slot]

/-- Settles O7: the placed bytes decode to the word's instruction whatever follows them. -/
theorem placedWordRunsNext : Obligations.PlacedWordRunsNext := by
  intro s nbits w i word
  obtain ⟨rest, whole⟩ : ∃ rest, decode (tableBytes nbits w) = .instr i rest := by
    unfold decodeTableWord at word
    split at word <;> cases word
    exact ⟨_, by assumption⟩
  exact (step_quiet rfl).trans (coreStep_of_instr (s := s.withFetchWord nbits w) rfl
    (BitVec.ne_of_lt (readyForOpcode_slot s)) rfl (decode_append whole (s.sourceBytes.drop 5)))

/-- Settles O37: the beginning of an encoding is a truncated opcode, and all the source has is part of it. -/
theorem truncatedOpcodeRaisesIOError : Obligations.TruncatedOpcodeRaisesIOError := by
  intro s i k ⟨busy, slot, noRun, quiet⟩ wf cut stream
  have short : decode s.sourceBytes = .short k := by rw [stream, decode_take_encode wf cut]
  have empty : s.sourceBytes.drop k = [] := by rw [length_of_short short, List.drop_length]
  have dry : step s = sourceDry k s :=
    calc step s
      _ = coreStep s := step_quiet quiet
      _ = opcodeStep s := coreStep_of_noRun busy (BitVec.ne_of_lt slot) noRun
      _ = sourceDry k s := opcodeStep_of_short short
  refine ⟨fun source => ?ends, fun source => ?fails, fun source => ?stalls⟩ <;> rw [dry]
  case ends => rw [sourceDry_of_ends source, State.raised, State.advance, empty]
  case fails => rw [sourceDry_of_fails source, State.raised, State.advance, empty]
  case stalls => exact sourceDry_of_stalls source k

/-! ### Paying out a run -/

/-- The state after `n` DRAIN steps. -/
def State.paidOut : Nat → State → State
  | 0, s => s
  | n + 1, s => s.drained.paidOut n

/-- Counting slots from the next one. -/
theorem succ_add_ofNat (c : Word) (k : Nat) : c + 1 + BitVec.ofNat 32 k = c + BitVec.ofNat 32 (k + 1) := by
  rw [BitVec.ofNat_add, BitVec.add_assoc, BitVec.add_comm 1]
  rfl

/-- Each DRAIN sends LAST to the next slot. -/
theorem State.paidOut_sent (n : Nat) (s : State) :
    (s.paidOut n).sent = s.sent ++ (List.range n).map fun k => ⟨s.col + BitVec.ofNat 32 k, s.last⟩ := by
  induction n generalizing s with
  | zero => simp [State.paidOut]
  | succ n ih =>
    rw [State.paidOut, ih, (emits_drained s).sent, List.range_succ_eq_map, List.append_assoc]
    have shifted : ∀ k < n, s.col + 1#32 + BitVec.ofNat 32 k = s.col + BitVec.ofNat 32 (k + 1) :=
      fun k _ => succ_add_ofNat s.col k
    simpa [State.drained] using shifted

/-- What DRAIN does not write. -/
theorem State.paidOut_keeps (n : Nat) (s : State) :
    (s.paidOut n).last = s.last ∧ (s.paidOut n).cache = s.cache ∧ (s.paidOut n).sourceBytes = s.sourceBytes ∧
    (s.paidOut n).phase = s.phase := by
  induction n generalizing s with
  | zero => exact ⟨rfl, rfl, rfl, rfl⟩
  | succ n ih => exact ih s.drained

/-- With `n` pixels owed and room for them, `n` steps pay them out. -/
theorem runSteps_of_pending {n : Nat} {s : State} (quiet : s.events = []) (busy : s.phase = .busy)
    (accepts : s.sinkAccepts = true) (owed : s.run.toNat = n) (room : s.col.toNat + n ≤ s.rowWidth.toNat) :
    runSteps n s = .next (s.paidOut n) ∧ (s.paidOut n).run = 0 ∧ (s.paidOut n).col.toNat = s.col.toNat + n := by
  induction n generalizing s with
  | zero => exact ⟨rfl, BitVec.eq_of_toNat_eq owed, rfl⟩
  | succ n ih =>
    have pending : 0 < s.run.toNat := by omega
    have slot : s.col < s.rowWidth := BitVec.lt_def.mpr (by omega)
    have nextCol : s.drained.col.toNat = s.col.toNat + 1 := toNat_col_succ slot
    have nextRun := toNat_run_drained pending
    obtain ⟨runs, done, col⟩ := ih (s := s.drained) quiet busy accepts (by omega)
      (by rw [nextCol, (opcodeFrame_drained s).rowWidth]; omega)
    refine ⟨?_, done, by rw [State.paidOut, col, nextCol]; omega⟩
    rw [runSteps, step_of_pending quiet busy slot (BitVec.lt_def.mpr pending) accepts, andThen_next, runs, State.paidOut]

/-- Settles O35: RUN sets the counter to its length, which the DRAIN steps then pay out. -/
theorem runPaysOutItsLength : Obligations.RunPaysOutItsLength := by
  intro s field rest ⟨busy, slot, noRun, quiet⟩ accepts whole room
  have legal := decode_run_legal whole
  have first : step s = .next (s.runStarted field) :=
    calc step s
      _ = coreStep s := step_quiet quiet
      _ = exec (.run field) s := coreStep_of_instr busy (BitVec.ne_of_lt slot) noRun whole
      _ = .next (s.runStarted field) := exec_run_of_legal legal s
  obtain ⟨runs, done, col⟩ := runSteps_of_pending (s := s.runStarted field) quiet busy accepts (toNat_runLength legal) room
  obtain ⟨last, cache, stream, phase⟩ := State.paidOut_keeps (field.toNat + 1) (s.runStarted field)
  refine ⟨_, by rw [runSteps, first, andThen_next, runs], done, col, State.paidOut_sent _ _, last, cache, ?_,
    phase.trans busy⟩
  exact stream.trans (decode_instr whole).2.2.symm

/-- Settles O36: neither ROW-COMPLETE nor DECODE_ROW touches RUN, LAST, CACHE or the stream; then a run is drained before any
opcode. -/
theorem pendingRunCarriesOverRows : Obligations.PendingRunCarriesOverRows := by
  intro s busy full moves
  have complete : step s = .next ({ s with events := [.decodeRow] } : State).rowCompleted :=
    (machineStep_event moves).trans (coreStep_of_full (s := { s with events := [.decodeRow] }) busy full)
  refine ⟨({ s with events := [] } : State).rowCompleted.rowStarted.reply .accepted, ?twoSteps,
    rfl, rfl, rfl, rfl, rfl, rfl, rfl, fun running wide => ?drain⟩
  case twoSteps =>
    rw [runSteps, complete, andThen_next, runSteps, step_decodeRow_of_idle (later := []) rfl rfl, andThen_next]
    rfl
  case drain =>
    exact (step_quiet rfl).trans (coreStep_of_pending rfl (Ne.symm wide) (bitVec_pos_of_ne_zero running))

end Sys2Proof.Machine
end

section
/-! PROOFS. What a step of the core leaves alone (20_memory, 70_reset_and_hazards R215, R220): it reads no byte ahead, sends at
most one pixel, and writes the cache and LAST's alpha only by the opcodes that do. -/

namespace Sys2Proof.Machine

/-- Settles O52: only an opcode that ends consumes bytes, its own. -/
theorem noReadAhead : Obligations.NoReadAhead := by
  intro s t quiet h
  have opcodeLength {i : Instr} {rest : List Byte} (whole : decode s.sourceBytes = .instr i rest) :
      (encode i).length ≤ 5 ∧ (encode i).length ≤ s.sourceBytes.length :=
    ⟨by rw [← opcodeBytes_of_instr whole]; exact opcodeBytes_le_five _, (decode_instr whole).2.1⟩
  have unread : s.sourceBytes = s.sourceBytes.drop 0 ∧ s.spos = s.spos + BitVec.ofNat 64 0 := ⟨rfl, (BitVec.add_zero _).symm⟩
  cases step_coreMoves quiet h with
  | quiescent | held | drainHeld | rowComplete | drain =>
    exact ⟨0, Nat.zero_le 5, Nat.zero_le _, unread.1, unread.2, fun read => absurd rfl read⟩
  | commit i rest px n length busy slot noRun whole =>
    subst length
    obtain ⟨short, there⟩ := opcodeLength whole
    exact ⟨_, short, there, rfl, rfl, fun _ => ⟨busy, BitVec.ne_of_lt slot, noRun⟩⟩
  | lookup index rest busy slot noRun whole =>
    obtain ⟨short, there⟩ := opcodeLength whole
    exact ⟨1, short, there, rfl, rfl, fun _ => ⟨busy, BitVec.ne_of_lt slot, noRun⟩⟩
  | run field rest busy notFull noRun whole =>
    obtain ⟨short, there⟩ := opcodeLength whole
    exact ⟨1, short, there, rfl, rfl, fun _ => ⟨busy, notFull, noRun⟩⟩
  | ioError k sub busy notFull noRun short =>
    exact ⟨k, (short_le_four short).trans (by decide), (length_of_short short).le, rfl, rfl,
      fun _ => ⟨busy, notFull, noRun⟩⟩

/-- A step of the core leaves the output alone, or sends its new LAST to the slot COL. -/
theorem CoreMoves.output {s t : State} (move : CoreMoves s t) :
    (t.sent = s.sent ∧ t.col = s.col ∧ t.image = s.image) ∨
    (s.phase = .busy ∧ s.col < s.rowWidth ∧ Emits t.last s t ∧ (s.image.wf → ReadsPixel t.image (outAddr s) t.last)) := by
  cases move with
  | quiescent | held | drainHeld | rowComplete | run | ioError => exact .inl ⟨rfl, rfl, rfl⟩
  | drain busy slot => exact .inr ⟨busy, slot, emits_drained s, readsPixel_drained⟩
  | commit _ _ px n _ busy slot =>
    obtain ⟨-, emits, reads, -⟩ := committed_advance px n s
    exact .inr ⟨busy, slot, emits, reads⟩
  | lookup index _ busy slot => exact .inr ⟨busy, slot, emits_lookedUp index s, readsPixel_lookedUp index⟩

/-- Settles O53: one of the two cases of `CoreMoves.output`. -/
theorem onePixelPerStepInSlotOrder : Obligations.OnePixelPerStepInSlotOrder := fun _ t quiet h =>
  (step_coreMoves quiet h).output.imp_right fun ⟨_, slot, emits, _⟩ => ⟨slot, t.last, emits, rfl⟩

/-- Settles O54: a committed pixel has the alpha of LAST but in LIT.RGBA, and no other move but LOOKUP writes LAST. -/
theorem alphaChangesOnlyByLitRgbaAndLookup : Obligations.AlphaChangesOnlyByLitRgbaAndLookup := by
  intro s t quiet h changed
  cases step_coreMoves quiet h with
  | quiescent | held | drainHeld | rowComplete | drain | run | ioError => exact absurd rfl changed
  | commit i rest px n _ _ _ _ whole _ alpha =>
    obtain same | literal := alpha
    · exact absurd same changed
    · exact ⟨i, rest, whole, .inl literal⟩
  | lookup index rest _ _ _ whole => exact ⟨_, rest, whole, .inr ⟨index, rfl⟩⟩

/-- Settles O55: only a commit writes the cache, and every committing opcode commits. -/
theorem onlyCommitsWriteTheCache : Obligations.OnlyCommitsWriteTheCache := by
  refine ⟨fun s t quiet h changed => ?onlyCommits, fun i s notLookup notRun ready => ?everyCommit⟩
  case onlyCommits =>
    cases step_coreMoves quiet h with
    | quiescent | held | drainHeld | rowComplete | drain | lookup | run | ioError => exact absurd rfl changed
    | commit i rest px n _ _ _ _ whole kind =>
      have commits := (committed_advance px n s).1
      refine ⟨commits.otherEntries, commits.entry, i, rest, whole, ?_, ?_⟩
      · rintro index rfl; exact kind
      · rintro f rfl; exact kind
  case everyCommit =>
    have kind := committing_of_not_lookup_run notLookup notRun
    exact ⟨_, exec_committing_of_ready kind ready,
      (committed_advance (committedPixel s.last i) (encode i).length s).1.entry⟩

/-! ### ROW and SPOS -/

theorem forgetCounters_emit (px : Pixel) (row : Word) (spos : BitVec 64) (s : State) :
    forgetCounters (emit px (withCounters row spos s)) = forgetCounters (emit px s) := by
  by_cases slot : s.col < s.rowWidth
  · rw [emit_of_slot slot, emit_of_slot (s := withCounters row spos s) slot]; rfl
  · rw [emit_of_no_slot slot, emit_of_no_slot (s := withCounters row spos s) slot]

/-- An execution that does not look at the counters may be fetched under any values in them. -/
theorem forgetCounters_whenFetched {k : State → Result} (n : Nat) (row : Word) (spos : BitVec 64) (s : State)
    (same : ∀ row spos t, forgetCounters (k (withCounters row spos t)) = forgetCounters (k t)) :
    forgetCounters (whenFetched n (withCounters row spos s) k) = forgetCounters (whenFetched n s k) := by
  cases sink : s.sinkAccepts with
  | false => rw [whenFetched_waits sink, whenFetched_waits (s := withCounters row spos s) sink]; rfl
  | true =>
    rw [whenFetched_of_ready sink, whenFetched_of_ready (s := withCounters row spos s) sink]
    exact same row (spos + BitVec.ofNat 64 n) (s.advance n)

theorem forgetCounters_commit (px : Pixel) (row : Word) (spos : BitVec 64) (s : State) :
    forgetCounters (commit px (withCounters row spos s)) = forgetCounters (commit px s) :=
  forgetCounters_emit px row spos ((s.cacheWrite (pixelHash px) (pack px)).setLast px)

theorem forgetCounters_exec (i : Instr) (row : Word) (spos : BitVec 64) (s : State) :
    forgetCounters (exec i (withCounters row spos s)) = forgetCounters (exec i s) := by
  have commits (px : Pixel) (n : Nat) : forgetCounters (whenFetched n (withCounters row spos s) (commit px)) =
      forgetCounters (whenFetched n s (commit px)) :=
    forgetCounters_whenFetched n row spos s (forgetCounters_commit px)
  cases i with
  | litRgb | litRgba | sdelta | ldelta => exact commits _ _
  | lookup index =>
    by_cases legal : index.toNat < 64
    · rw [exec_lookup_of_legal legal, exec_lookup_of_legal legal]
      exact forgetCounters_whenFetched 1 row spos s fun row spos t => forgetCounters_emit _ row spos (t.setLast _)
    · have illegal := Nat.not_lt.mp legal
      rw [illegalIndexIsRaisedAndUnreachable.1 index _ illegal, illegalIndexIsRaisedAndUnreachable.1 index _ illegal]
      rfl
  | run field =>
    by_cases legal : field.toNat < 62
    · rw [exec_run_of_legal legal, exec_run_of_legal legal]; rfl
    · have illegal := Nat.not_lt.mp legal
      rw [illegalRunLengthIsRaisedAndUnreachable.1 field _ illegal,
        illegalRunLengthIsRaisedAndUnreachable.1 field _ illegal]
      rfl

theorem forgetCounters_sourceDry (k : Nat) (row : Word) (spos : BitVec 64) (s : State) :
    forgetCounters (sourceDry k (withCounters row spos s)) = forgetCounters (sourceDry k s) := by
  cases source : s.sourceEnd with
  | ends => rw [sourceDry_of_ends source, sourceDry_of_ends (s := withCounters row spos s) source]; rfl
  | fails => rw [sourceDry_of_fails source, sourceDry_of_fails (s := withCounters row spos s) source]; rfl
  | stalls => rw [sourceDry_of_stalls source, sourceDry_of_stalls (s := withCounters row spos s) source]; rfl

theorem forgetCounters_opcodeStep (row : Word) (spos : BitVec 64) (s : State) :
    forgetCounters (opcodeStep (withCounters row spos s)) = forgetCounters (opcodeStep s) := by
  obtain ⟨i, rest, whole⟩ | ⟨k, short⟩ := decode_cases s.sourceBytes
  · rw [opcodeStep_of_instr whole, opcodeStep_of_instr (s := withCounters row spos s) whole]
    exact forgetCounters_exec i row spos s
  · rw [opcodeStep_of_short short, opcodeStep_of_short (s := withCounters row spos s) short]
    exact forgetCounters_sourceDry k row spos s

theorem forgetCounters_drain (row : Word) (spos : BitVec 64) (s : State) :
    forgetCounters (drain (withCounters row spos s)) = forgetCounters (drain s) := by
  cases sink : s.sinkAccepts with
  | false =>
    rw [drain, drain, whenSinkAccepts_false sink, whenSinkAccepts_false (s := withCounters row spos s) sink]; rfl
  | true =>
    rw [drain, drain, whenSinkAccepts_true sink, whenSinkAccepts_true (s := withCounters row spos s) sink]
    exact forgetCounters_emit s.last row spos (s.setRun (s.run - 1))

/-- Settles O56: the counters choose no branch of the step, and what each branch does is the same without them. -/
theorem countersDoNotBearOnDecoding : Obligations.CountersDoNotBearOnDecoding := by
  intro s row spos
  obtain ⟨notBusy, e⟩ | ⟨busy, full, e⟩ | ⟨busy, notFull, pending, e⟩ | ⟨busy, notFull, noRun, e⟩ := coreStep_cases s
  · rw [e, coreStep_of_not_busy (s := withCounters row spos s) notBusy]; rfl
  · rw [e, coreStep_of_full (s := withCounters row spos s) busy full]; rfl
  · rw [e, coreStep_of_pending (s := withCounters row spos s) busy notFull pending]
    exact forgetCounters_drain row spos s
  · rw [e, coreStep_of_noRun (s := withCounters row spos s) busy notFull noRun]
    exact forgetCounters_opcodeStep row spos s

end Sys2Proof.Machine
end

section
/-! PROOFS. The host's view (45_host_commands, 60_exceptions): INIT, the sticky error, the changes of phase, the status
registers and the output lines. -/

namespace Sys2Proof.Machine

/-! ### INIT, ERROR and the phases -/

theorem step_init_of_not_busy {s : State} {w : Word} {later : List Event} (move : s.events = .init w :: later)
    (notBusy : s.phase ≠ .busy) :
    step s = .next ((({ s with events := later } : State).initialised w).reply .accepted) :=
  (machineStep_event move).trans (hostInit_accepted (s := { s with events := later }) notBusy)

theorem step_init_of_busy {s : State} {w : Word} {later : List Event} (move : s.events = .init w :: later)
    (busy : s.phase = .busy) : step s = .next (({ s with events := later } : State).reply .notAccepted) :=
  (machineStep_event move).trans (hostInit_refused (s := { s with events := later }) busy)

/-- Settles O40: an accepted INIT leaves `initialised`, a refused one the state as it was, each with a reply. -/
theorem initConstructsTheDecoder : Obligations.InitConstructsTheDecoder := fun _ w _ move =>
  ⟨fun notBusy => ⟨_, step_init_of_not_busy move notBusy, rfl, cacheRead_initialised_reply w .accepted _, rfl, rfl, rfl,
      rfl, rfl, rfl, rfl, rfl, rfl, rfl, rfl, rfl, rfl⟩,
    step_init_of_busy move⟩

/-- Outside BUSY the core does not move. -/
theorem CoreMoves.eq_of_not_busy {s t : State} (move : CoreMoves s t) (notBusy : s.phase ≠ .busy) : t = s := by
  cases move with
  | quiescent => rfl
  | held _ _ busy | drainHeld busy | rowComplete busy | drain busy | commit _ _ _ _ _ busy | lookup _ _ busy
  | run _ _ busy | ioError _ _ busy => exact absurd busy notBusy

/-- Settles O39: the core is quiescent in ERROR, and of the host's moves only INIT and hard reset touch its registers. -/
theorem errorIsSticky : Obligations.ErrorIsSticky := by
  intro s t failed noReset noInit h
  have notBusy : s.phase ≠ .busy := by rw [failed]; decide
  have notIdle : s.phase ≠ .idle := by rw [failed]; decide
  have refused rest (move : s.events = .decodeRow :: rest) : t.replies = s.replies ++ [.notAccepted] := by
    cases (step_decodeRow_of_not_idle move notIdle).symm.trans h
    rfl
  obtain ⟨quiet, move⟩ | ⟨later, moves, move⟩ | ⟨e, later, moves, move⟩ := step_moves h
  · cases move.eq_of_not_busy notBusy
    exact ⟨by constructor <;> rfl, rfl, fun _ => rfl, refused⟩
  · cases move.eq_of_not_busy (s := { s with events := later }) notBusy
    exact ⟨by constructor <;> rfl, rfl, fun quiet => (by rw [quiet] at moves; cases moves), refused⟩
  · have notQuiet (quiet : s.events = []) : t = s := by rw [quiet] at moves; cases moves
    cases move with
    | hardReset => exact absurd moves (noReset later)
    | initAccepted w => exact absurd moves (noInit w later)
    | initRefused _ busy => exact absurd busy notBusy
    | rowStarted idle => exact absurd idle notIdle
    | rowRefused | statusRead | sourcePlaced | supplied | sinkReady | freshImage =>
      exact ⟨by constructor <;> rfl, rfl, notQuiet, refused⟩

/-- The core changes the phase only by ROW-COMPLETE and error entry. -/
theorem CoreMoves.phase_change {s t : State} (move : CoreMoves s t) (changed : t.phase ≠ s.phase) :
    (t.phase = .idle ∧ s.phase = .busy ∧ s.col = s.rowWidth ∧ t.rowDone = true) ∨
    (t.phase = .error ∧ s.phase = .busy ∧ s.col ≠ s.rowWidth ∧ s.run = 0) := by
  cases move with
  | quiescent | held | drainHeld | drain | commit | lookup | run => exact absurd rfl changed
  | rowComplete busy full => exact .inl ⟨rfl, busy, full, rfl⟩
  | ioError _ _ busy notFull noRun => exact .inr ⟨rfl, busy, notFull, noRun⟩

/-- Settles O43: the host changes the phase by hard reset, INIT and DECODE_ROW, the core by `CoreMoves.phase_change`. -/
theorem phaseTransitions : Obligations.PhaseTransitions := by
  intro s t h changed
  obtain ⟨-, move⟩ | ⟨later, -, move⟩ | ⟨e, later, moves, move⟩ := step_moves h
  · exact .inr (.inr (.inr (move.phase_change changed)))
  · exact .inr (.inr (.inr (move.phase_change changed)))
  · cases move with
    | hardReset => exact .inl ⟨rfl, later, moves⟩
    | initAccepted w notBusy => exact .inr (.inl ⟨rfl, notBusy, w, later, moves⟩)
    | rowStarted idle => exact .inr (.inr (.inl ⟨rfl, idle, later, moves⟩))
    | initRefused | rowRefused | statusRead | sourcePlaced | supplied | sinkReady | freshImage => exact absurd rfl changed

/-! ### The status port and the output lines -/

theorem toNat_statusWord (s : State) :
    (statusWord s).toNat = (phaseCode s.phase).toNat + 4 * s.rowDone.toNat := by
  simp only [statusWord, toNat_append_eq_add, BitVec.toNat_ofNat, BitVec.toNat_ofBool]
  omega

theorem toNat_errWord (s : State) :
    (errWord s).toNat = (errCodeBits s.err.code).toNat + 8 * s.err.sub.toNat + 256 * s.err.value.toNat := by
  simp only [errWord, toNat_append_eq_add, BitVec.toNat_ofNat]
  omega

/-- Settles O44: STATUS and ERR by their digits, the rest from the map. -/
theorem statusRegisterMap : Obligations.StatusRegisterMap := by
  intro s
  have status {p : Phase} (h : s.phase = p) :
      (statusRegister s 0).toNat = (phaseCode p).toNat + 4 * s.rowDone.toNat := by
    rw [← h]; exact toNat_statusWord s
  have error {c : ErrCode} (h : s.err.code = c) :
      (statusRegister s 1).toNat = (errCodeBits c).toNat + 8 * s.err.sub.toNat + 256 * s.err.value.toNat := by
    rw [← h]; exact toNat_errWord s
  refine ⟨status, status, status, status, error, error, error, error, error, rfl, rfl, rfl, ?low, ?high, ?others⟩
  case low =>
    show (s.spos.extractLsb' 0 32).toNat = _
    rw [BitVec.extractLsb'_toNat, Nat.shiftRight_zero]
  case high =>
    have top : s.spos.toNat / 2 ^ 32 < 2 ^ 32 := Nat.div_lt_of_lt_mul s.spos.isLt
    show (s.spos.extractLsb' 32 32).toNat = _
    rw [BitVec.extractLsb'_toNat, Nat.shiftRight_eq_div_pow, Nat.mod_eq_of_lt top]
  case others =>
    intro n beyond
    unfold statusRegister
    iterate 7 rw [if_neg (by omega)]

/-- Settles O45: the read is taken off the list, and the map does not depend on the list. -/
theorem statusReadHasNoSideEffect : Obligations.StatusReadHasNoSideEffect := by
  intro s n later move
  obtain ⟨t, next, read⟩ := hostReadStatus_moves n { s with events := later }
  cases read with
  | statusRead _ v draws known => exact ⟨v, draws, (machineStep_event move).trans next, known⟩

theorem errorLine_iff (s : State) : errorLine s = true ↔ s.phase = .error := decide_eq_true_iff

/-- Settles O46: the flag is set only in IDLE. -/
theorem outputLines : Obligations.OutputLines := by
  refine fun s => ⟨rfl, errorLine_iff s, fun inv ⟨done, failed⟩ => ?_⟩
  have idle := (inv.rowDone done).1
  rw [(errorLine_iff s).mp failed] at idle
  cases idle

/-- Settles O48: the values are those of `State.reset`, and in UNINIT the core is quiescent. -/
theorem powerOnState : Obligations.PowerOnState :=
  ⟨rfl, rfl, rfl, rfl, rfl, rfl, (step_quiet rfl).trans (coreStep_of_not_busy Phase.noConfusion)⟩

/-! ### Hard reset -/

theorem step_hardReset {s : State} {later : List Event} (move : s.events = .hardReset :: later) :
    step s = .next ({ s with events := later } : State).interrupted.registersLost :=
  machineStep_event move

/-- Settles O47: what is lost and what is in flight bear on none of it. -/
theorem hardResetLeavesUninit : Obligations.HardResetLeavesUninit := fun _ _ move =>
  ⟨_, step_hardReset move, rfl, rfl, rfl, rfl, rfl, rfl, coreStep_of_not_busy Phase.noConfusion,
    hostDecodeRow_refused Phase.noConfusion⟩

/-- At least the bytes in the latches are lost, at most the opcode in flight (log entry 4). -/
theorem bytesLost_bounds {s : State} (latches : s.latched ≤ bytesInFlight s) :
    s.latched ≤ bytesLost s ∧ bytesLost s ≤ bytesInFlight s := by
  have drawn : Config.freeCount s.draws % (bytesInFlight s - s.latched + 1) < bytesInFlight s - s.latched + 1 :=
    Nat.mod_lt _ (Nat.succ_pos _)
  unfold bytesLost
  omega

/-- Settles O60: the bounds are `bytesLost_bounds`; a pixel in flight is one that `CoreMoves.output` allows. -/
theorem hardResetEmptiesTheLatches : Obligations.HardResetEmptiesTheLatches := by
  intro s later inv move
  obtain ⟨atLeast, atMost⟩ := bytesLost_bounds (s := { s with events := later }) inv.latches
  refine ⟨_, bytesLost { s with events := later }, step_hardReset move, rfl, atLeast, atMost, rfl, ?output⟩
  case output =>
    obtain same | ⟨allGone, image, sent⟩ := interrupted_output { s with events := later }
    · exact .inl same
    · obtain none | ⟨u, offered, flight⟩ := outputInFlight_cases { s with events := later }
      · rw [none] at image sent
        exact .inl ⟨sent, image⟩
      · rw [flight] at image sent
        obtain ⟨sameSent, -, sameImage⟩ | ⟨busy, slot, emits, reads⟩ := (coreStep_moves offered).output
        · exact .inl ⟨sent.trans sameSent, image.trans sameImage⟩
        · refine .inr ⟨busy, slot, allGone, u.last, u, offered, emits.sent, sent.trans emits.sent, ?_, fun a outside => ?_⟩
          · exact image ▸ reads inv.imageWf
          · exact image ▸ emits.elsewhere a outside

end Sys2Proof.Machine
end

section
/-! PROOFS. The container header (20_memory R47), which the host parses outside the core. -/

namespace Sys2Proof.Machine

theorem toNat_bigEndian (b3 b2 b1 b0 : Byte) :
    (bigEndian b3 b2 b1 b0).toNat = b3.toNat * 2 ^ 24 + b2.toNat * 2 ^ 16 + b1.toNat * 2 ^ 8 + b0.toNat :=
  toNat_pack ⟨b3, b2, b1, b0⟩

/-- Settles O59: the parser's two patterns are a list of at least 14 bytes and any other. -/
theorem headerParsing : Obligations.HeaderParsing := by
  refine ⟨fun w3 w2 w1 w0 h3 h2 h1 h0 c k rest => ?header, fun bytes long other => ?badMagic, fun bytes short => ?tooShort⟩
  case header =>
    exact ⟨⟨bigEndian w3 w2 w1 w0, bigEndian h3 h2 h1 h0, c, k⟩, rfl, toNat_bigEndian _ _ _ _, toNat_bigEndian _ _ _ _,
      rfl, rfl⟩
  case badMagic =>
    match bytes, long with
    | _ :: _ :: _ :: _ :: _ :: _ :: _ :: _ :: _ :: _ :: _ :: _ :: _ :: _ :: _, _ => exact if_neg other
  case tooShort =>
    unfold parseHeader
    split
    · simp only [List.length_cons] at short
      omega
    · rfl

end Sys2Proof.Machine
end
